-- ==== Sys2Proof/Word.lean ====
section
/-! DEFINITION. The machine's two word types. Every register byte, memory byte, immediate byte and
address is an unsigned value (spec 00_scope.md rules R7, R9, R11): bytes of 8 bits and words of 16
bits, both wrapping (rule R12), with bit 0 the least significant. -/

namespace Sys2Proof

/-- An 8-bit register, memory cell, immediate or port byte (rules R7, R11). -/
abbrev Byte := BitVec 8

/-- A 16-bit address, register pair, program counter or stack pointer (rules R7, R11). -/
abbrev Word := BitVec 16

end Sys2Proof
end

