-- ==== Sys2Proof/Machine/Bits.lean ====
section
/-! DEFINITION. Bit and byte-order helpers: concatenation and the two halves of a word (spec
00_scope.md rules R9, R10), fields of an opcode (rule R9), parity (rule R13). -/

namespace Sys2Proof

/-- `{hi, lo}`: `hi` in bits 15:8, `lo` in bits 7:0 (rule R10). -/
def wordOf (hi lo : Byte) : Word := hi ++ lo

/-- `v[15:8]` (rule R9). -/
def hiByte (v : Word) : Byte := v.extractLsb' 8 8

/-- `v[7:0]` (rule R9). -/
def loByte (v : Word) : Byte := v.extractLsb' 0 8

/-- `parity_even(v)`: the number of 1 bits in `v` is even, zero counting as even (rules R13, R151). -/
def parityEven (v : Byte) : Bool :=
  !(v.getLsbD 0 ^^ v.getLsbD 1 ^^ v.getLsbD 2 ^^ v.getLsbD 3 ^^
    v.getLsbD 4 ^^ v.getLsbD 5 ^^ v.getLsbD 6 ^^ v.getLsbD 7)

end Sys2Proof
end

