-- ==== Sys2Proof/Syntax.lean ====
section
/-! DEFINITION. The instructions, one constructor per instruction row of spec/opcode_table.json
(spec 30_encoding.md rules R112, R113), and the operand forms they carry (rules R86 to R88, R102).
The table's eleven UNIMPLEMENTED rows are the decoder's one variant `Unimplemented(byte)` (rules R81,
R100), which carries the byte. -/

namespace Sys2Proof

/-- The seven general registers (rule R20). -/
inductive Reg where
  | a | b | c | d | e | h | l
  deriving DecidableEq, Repr

/-- A source that a 3-bit code names (rule R86): a register, or code 6, the M operand, which is the
memory byte at HL and is no register (rules R21, R22). -/
inductive Operand where
  | reg (r : Reg)
  | m
  deriving DecidableEq, Repr

/-- The pairs of LXI, DAD, INX, DCX (rule R87). -/
inductive RegPair where
  | bc | de | hl | sp
  deriving DecidableEq, Repr

/-- The register pairs of PUSH and POP; code 3 of that field, PSW, has rows of its own (rule R87). -/
inductive StackPair where
  | bc | de | hl
  deriving DecidableEq, Repr

/-- The pairs of STAX and LDAX (rule R87). -/
inductive IndexPair where
  | bc | de
  deriving DecidableEq, Repr

/-- The eight conditions (rules R88, R231). -/
inductive Cond where
  | nz | z | nc | c | po | pe | p | m
  deriving DecidableEq, Repr

/-- The decoded instruction (rule R112). An `imm` is `b2`, an `imm16` or `addr` is `{b3, b2}`, a `port`
is `b2` (rules R82, R102). -/
inductive Instr where
  -- data transfer (40_data_transfer.md)
  | movRR (dst src : Reg)
  | movRM (dst : Reg)
  | movMR (src : Reg)
  | mviR (dst : Reg) (imm : Byte)
  | mviM (imm : Byte)
  | lxi (pair : RegPair) (imm16 : Word)
  | lda (addr : Word)
  | sta (addr : Word)
  | ldax (pair : IndexPair)
  | stax (pair : IndexPair)
  | lhld (addr : Word)
  | shld (addr : Word)
  | xchg
  -- accumulator arithmetic and logic, register or M operand (41_arithmetic_logic.md)
  | add (src : Operand)
  | adc (src : Operand)
  | sub (src : Operand)
  | sbb (src : Operand)
  | ana (src : Operand)
  | xra (src : Operand)
  | ora (src : Operand)
  | cmp (src : Operand)
  -- the same with an immediate operand
  | adi (imm : Byte)
  | aci (imm : Byte)
  | sui (imm : Byte)
  | sbi (imm : Byte)
  | ani (imm : Byte)
  | xri (imm : Byte)
  | ori (imm : Byte)
  | cpi (imm : Byte)
  -- increment, decrement, 16-bit add, decimal adjust, rotates, carry (42_incdec_dad_daa_rotate.md)
  | inrR (dst : Reg)
  | inrM
  | dcrR (dst : Reg)
  | dcrM
  | inx (pair : RegPair)
  | dcx (pair : RegPair)
  | dad (pair : RegPair)
  | daa
  | rlc
  | rrc
  | ral
  | rar
  | cma
  | stc
  | cmc
  -- branch and control transfer (43_branch_control.md)
  | jmp (addr : Word)
  | jnz (addr : Word)
  | jz (addr : Word)
  | jnc (addr : Word)
  | jc (addr : Word)
  | jpo (addr : Word)
  | jpe (addr : Word)
  | jp (addr : Word)
  | jm (addr : Word)
  | call (addr : Word)
  | cnz (addr : Word)
  | cz (addr : Word)
  | cnc (addr : Word)
  | cc (addr : Word)
  | cpo (addr : Word)
  | cpe (addr : Word)
  | cp (addr : Word)
  | cm (addr : Word)
  | ret
  | rnz
  | rz
  | rnc
  | rc
  | rpo
  | rpe
  | rp
  | rm
  | rst (n : BitVec 3)
  | pchl
  | sphl
  -- stack (44_stack.md)
  | push (pair : StackPair)
  | pushPsw
  | pop (pair : StackPair)
  | popPsw
  | xthl
  -- I/O and control (45_io_control.md)
  | inPort (port : Byte)
  | outPort (port : Byte)
  | ei
  | di
  | rim
  | sim
  | hlt
  -- a byte with no instruction (rule R100; notes/assumptions/10.md)
  | unimplemented (byte : Byte)
  deriving DecidableEq, Repr

end Sys2Proof
end

