-- ==== Sys2Proof/WellFormed.lean ====
section
/-! DEFINITION. Which terms of `Instr` the decoder may yield. The operand types admit exactly what the
fields encode (spec 30_encoding.md rules R86 to R88, R102), so the one check left is that an
`unimplemented` byte is one of the eleven (rule R100). -/

namespace Sys2Proof

/-- The eleven bytes with no instruction, in rule R100's order. -/
def unimplementedBytes : List Byte :=
  [0x00, 0x08, 0x10, 0x18, 0x28, 0x38, 0xCB, 0xD9, 0xDD, 0xED, 0xFD]

/-- The decoder's output for some byte sequence (rules R95, R100). -/
def Instr.wellFormed : Instr → Bool
  | .movRR _ _ | .movRM _ | .movMR _ | .mviR _ _ | .mviM _ | .lxi _ _ | .lda _ | .sta _ => true
  | .ldax _ | .stax _ | .lhld _ | .shld _ | .xchg => true
  | .add _ | .adc _ | .sub _ | .sbb _ | .ana _ | .xra _ | .ora _ | .cmp _ => true
  | .adi _ | .aci _ | .sui _ | .sbi _ | .ani _ | .xri _ | .ori _ | .cpi _ => true
  | .inrR _ | .inrM | .dcrR _ | .dcrM | .inx _ | .dcx _ | .dad _ | .daa => true
  | .rlc | .rrc | .ral | .rar | .cma | .stc | .cmc => true
  | .jmp _ | .jnz _ | .jz _ | .jnc _ | .jc _ | .jpo _ | .jpe _ | .jp _ | .jm _ => true
  | .call _ | .cnz _ | .cz _ | .cnc _ | .cc _ | .cpo _ | .cpe _ | .cp _ | .cm _ => true
  | .ret | .rnz | .rz | .rnc | .rc | .rpo | .rpe | .rp | .rm | .rst _ | .pchl | .sphl => true
  | .push _ | .pushPsw | .pop _ | .popPsw | .xthl => true
  | .inPort _ | .outPort _ | .ei | .di | .rim | .sim | .hlt => true
  | .unimplemented byte => unimplementedBytes.contains byte

end Sys2Proof
end

