-- ==== Sys2Proof/Decode.lean ====
section
/-! DEFINITION. The decoder and, after it, the encoder (spec 30_encoding.md). The decoder is total: the
opcode byte alone selects the instruction (rules R80, R81), and a byte no rule matches decodes to
`unimplemented` with that byte (rule R100). -/

namespace Sys2Proof

/-! ## Fields of the opcode byte (rules R85, R102) -/

/-- Bits 7:6, the quadrant. -/
def quadrant (op : Byte) : Nat := (op.extractLsb' 6 2).toNat

/-- Bits 5:3: `ddd`, `ooo`, `ccc` or `nnn`. -/
def midField (op : Byte) : BitVec 3 := op.extractLsb' 3 3

/-- Bits 2:0: `sss`, or the column of quadrants `00` and `11`. -/
def lowField (op : Byte) : BitVec 3 := op.extractLsb' 0 3

/-- Bits 5:4: `pp`. -/
def pairField (op : Byte) : BitVec 2 := op.extractLsb' 4 2

/-! ## Field codes (rules R86 to R88) -/

/-- The register codes (rules R21, R86); code 6 is M. -/
def operandOfCode (code : BitVec 3) : Operand :=
  match code.toNat with
  | 0 => .reg .b
  | 1 => .reg .c
  | 2 => .reg .d
  | 3 => .reg .e
  | 4 => .reg .h
  | 5 => .reg .l
  | 6 => .m
  | _ => .reg .a

/-- The pair codes of LXI, DAD, INX, DCX (rule R87). -/
def pairOfCode (code : BitVec 2) : RegPair :=
  match code.toNat with
  | 0 => .bc
  | 1 => .de
  | 2 => .hl
  | _ => .sp

/-! ## The decoder, quadrant by quadrant (rules R91 to R95) -/

/-- MVI, INR and DCR have one row for the registers and one for M (rule R113). -/
def onRegisterOrM (target : Operand) (onReg : Reg → Instr) (onM : Instr) : Instr :=
  match target with
  | .reg r => onReg r
  | .m => onM

/-- Quadrant `00` (rule R91). -/
def decodeQuadrant0 (op b2 b3 : Byte) : Instr :=
  let d16 := wordOf b3 b2
  let pair := pairOfCode (pairField op)
  let target := operandOfCode (midField op)
  let row := (midField op).toNat
  match (lowField op).toNat with
  | 0 =>
    match row with
    | 4 => .rim
    | 6 => .sim
    | _ => .unimplemented op
  | 1 => if row % 2 = 0 then .lxi pair d16 else .dad pair
  | 2 =>
    match row with
    | 0 => .stax .bc
    | 1 => .ldax .bc
    | 2 => .stax .de
    | 3 => .ldax .de
    | 4 => .shld d16
    | 5 => .lhld d16
    | 6 => .sta d16
    | _ => .lda d16
  | 3 => if row % 2 = 0 then .inx pair else .dcx pair
  | 4 => onRegisterOrM target .inrR .inrM
  | 5 => onRegisterOrM target .dcrR .dcrM
  | 6 => onRegisterOrM target (.mviR · b2) (.mviM b2)
  | _ =>
    match row with
    | 0 => .rlc
    | 1 => .rrc
    | 2 => .ral
    | 3 => .rar
    | 4 => .daa
    | 5 => .cma
    | 6 => .stc
    | _ => .cmc

/-- Quadrant `01` (rule R92): MOV, except that code 6 on both sides is HLT. -/
def decodeQuadrant1 (op : Byte) : Instr :=
  match operandOfCode (midField op), operandOfCode (lowField op) with
  | .reg dst, .reg src => .movRR dst src
  | .reg dst, .m => .movRM dst
  | .m, .reg src => .movMR src
  | .m, .m => .hlt

/-- Quadrant `10` (rules R89, R93). -/
def decodeQuadrant2 (op : Byte) : Instr :=
  let src := operandOfCode (lowField op)
  match (midField op).toNat with
  | 0 => .add src
  | 1 => .adc src
  | 2 => .sub src
  | 3 => .sbb src
  | 4 => .ana src
  | 5 => .xra src
  | 6 => .ora src
  | _ => .cmp src

/-- Quadrant `11` (rule R94). -/
def decodeQuadrant3 (op b2 b3 : Byte) : Instr :=
  let a16 := wordOf b3 b2
  let row := (midField op).toNat
  match (lowField op).toNat with
  | 0 =>
    match row with
    | 0 => .rnz
    | 1 => .rz
    | 2 => .rnc
    | 3 => .rc
    | 4 => .rpo
    | 5 => .rpe
    | 6 => .rp
    | _ => .rm
  | 1 =>
    match row with
    | 0 => .pop .bc
    | 1 => .ret
    | 2 => .pop .de
    | 3 => .unimplemented op
    | 4 => .pop .hl
    | 5 => .pchl
    | 6 => .popPsw
    | _ => .sphl
  | 2 =>
    match row with
    | 0 => .jnz a16
    | 1 => .jz a16
    | 2 => .jnc a16
    | 3 => .jc a16
    | 4 => .jpo a16
    | 5 => .jpe a16
    | 6 => .jp a16
    | _ => .jm a16
  | 3 =>
    match row with
    | 0 => .jmp a16
    | 1 => .unimplemented op
    | 2 => .outPort b2
    | 3 => .inPort b2
    | 4 => .xthl
    | 5 => .xchg
    | 6 => .di
    | _ => .ei
  | 4 =>
    match row with
    | 0 => .cnz a16
    | 1 => .cz a16
    | 2 => .cnc a16
    | 3 => .cc a16
    | 4 => .cpo a16
    | 5 => .cpe a16
    | 6 => .cp a16
    | _ => .cm a16
  | 5 =>
    match row with
    | 0 => .push .bc
    | 1 => .call a16
    | 2 => .push .de
    | 4 => .push .hl
    | 6 => .pushPsw
    | _ => .unimplemented op
  | 6 =>
    match row with
    | 0 => .adi b2
    | 1 => .aci b2
    | 2 => .sui b2
    | 3 => .sbi b2
    | 4 => .ani b2
    | 5 => .xri b2
    | 6 => .ori b2
    | _ => .cpi b2
  | _ => .rst (midField op)

/-- `Decode` applied to an opcode byte, with the operand bytes that may follow it (rules R81, R82,
R95). Bytes the instruction does not use are ignored (rule R84). -/
def decode (op b2 b3 : Byte) : Instr :=
  match quadrant op with
  | 0 => decodeQuadrant0 op b2 b3
  | 1 => decodeQuadrant1 op
  | 2 => decodeQuadrant2 op
  | _ => decodeQuadrant3 op b2 b3

/-- The instruction's length in bytes, a function of the opcode byte alone (rules R83, R84). -/
def opcodeLength (op : Byte) : Nat :=
  let row := (midField op).toNat
  match quadrant op with
  | 0 =>
    match (lowField op).toNat with
    | 1 => if row % 2 = 0 then 3 else 1
    | 2 => if 4 ≤ row then 3 else 1
    | 6 => 2
    | _ => 1
  | 3 =>
    match (lowField op).toNat with
    | 2 => 3
    | 3 => if row = 0 then 3 else if row = 2 ∨ row = 3 then 2 else 1
    | 4 => 3
    | 5 => if row = 1 then 3 else 1
    | 6 => 2
    | _ => 1
  | _ => 1

/-- Why a byte list holds no whole instruction. -/
inductive DecodeError where
  /-- The list is empty. -/
  | noOpcode
  /-- The list ends before the operand bytes of this opcode (rule R82). -/
  | operandMissing (op : Byte)
  deriving DecidableEq, Repr

/-- The instruction at the front of a byte list and the bytes after it (rules R80, R82, R83). -/
def decodeStream : List Byte → Except DecodeError (Instr × List Byte)
  | [] => .error .noOpcode
  | op :: rest =>
    match opcodeLength op, rest with
    | 1, _ => .ok (decode op 0 0, rest)
    | 2, b2 :: after => .ok (decode op b2 0, after)
    | 3, b2 :: b3 :: after => .ok (decode op b2 b3, after)
    | _, _ => .error (.operandMissing op)

/-! ## The same map in the source's decode order -/

/-- Whether an opcode byte has the `value` where `mask` has ones. -/
def matchesPattern (op mask value : Byte) : Bool := op &&& mask == value

/-- Step 9 of rule R90, byte values of rule R94: the jumps. -/
def jumpRows (a16 : Word) : List (Byte × Instr) :=
  [(0xC3, .jmp a16), (0xC2, .jnz a16), (0xCA, .jz a16), (0xD2, .jnc a16), (0xDA, .jc a16),
   (0xE2, .jpo a16), (0xEA, .jpe a16), (0xF2, .jp a16), (0xFA, .jm a16)]

/-- The calls. -/
def callRows (a16 : Word) : List (Byte × Instr) :=
  [(0xCD, .call a16), (0xC4, .cnz a16), (0xCC, .cz a16), (0xD4, .cnc a16), (0xDC, .cc a16),
   (0xE4, .cpo a16), (0xEC, .cpe a16), (0xF4, .cp a16), (0xFC, .cm a16)]

/-- The returns. -/
def returnRows : List (Byte × Instr) :=
  [(0xC9, .ret), (0xC0, .rnz), (0xC8, .rz), (0xD0, .rnc), (0xD8, .rc), (0xE0, .rpo), (0xE8, .rpe),
   (0xF0, .rp), (0xF8, .rm)]

/-- PUSH and POP. -/
def stackRows : List (Byte × Instr) :=
  [(0xC5, .push .bc), (0xD5, .push .de), (0xE5, .push .hl), (0xF5, .pushPsw), (0xC1, .pop .bc),
   (0xD1, .pop .de), (0xE1, .pop .hl), (0xF1, .popPsw)]

/-- The immediate ALU forms. -/
def immediateRows (b2 : Byte) : List (Byte × Instr) :=
  [(0xC6, .adi b2), (0xCE, .aci b2), (0xD6, .sui b2), (0xDE, .sbi b2), (0xE6, .ani b2),
   (0xEE, .xri b2), (0xF6, .ori b2), (0xFE, .cpi b2)]

/-- RST 0 to RST 7. -/
def restartRows : List (Byte × Instr) :=
  [(0xC7, .rst 0), (0xCF, .rst 1), (0xD7, .rst 2), (0xDF, .rst 3), (0xE7, .rst 4), (0xEF, .rst 5),
   (0xF7, .rst 6), (0xFF, .rst 7)]

/-- IN, OUT and the six fixed bytes that end step 9's list. -/
def portAndFixedRows (b2 : Byte) : List (Byte × Instr) :=
  [(0xDB, .inPort b2), (0xD3, .outPort b2), (0xEB, .xchg), (0xE3, .xthl), (0xE9, .pchl),
   (0xF9, .sphl), (0xF3, .di), (0xFB, .ei)]

/-- All of step 9: the 59 bytes of quadrant `11` (rule R94). -/
def enumeratedRows (b2 b3 : Byte) : List (Byte × Instr) :=
  jumpRows (wordOf b3 b2) ++ callRows (wordOf b3 b2) ++ returnRows ++ stackRows ++
    immediateRows b2 ++ restartRows ++ portAndFixedRows b2

/-- Step 5 of rule R90. -/
def singleByteSpecials (b2 b3 : Byte) : List (Byte × Instr) :=
  let a16 := wordOf b3 b2
  [(0x07, .rlc), (0x0F, .rrc), (0x17, .ral), (0x1F, .rar), (0x22, .shld a16), (0x2A, .lhld a16),
   (0x27, .daa), (0x2F, .cma), (0x32, .sta a16), (0x3A, .lda a16), (0x37, .stc), (0x3F, .cmc),
   (0x20, .rim), (0x30, .sim)]

/-- The canonical decode order of rule R90, "most specific mask first", stopping at the first match.
`decode` is the machine's decoder; that the two agree is a claim, not a definition. -/
def decodeInOrder (op b2 b3 : Byte) : Instr :=
  let target := operandOfCode (midField op)
  let source := operandOfCode (lowField op)
  let pair := pairOfCode (pairField op)
  let index : IndexPair := if op.getLsbD 4 then .de else .bc
  if matchesPattern op 0xC7 0x06 then onRegisterOrM target (.mviR · b2) (.mviM b2)
  else if matchesPattern op 0xCF 0x01 then .lxi pair (wordOf b3 b2)
  else if matchesPattern op 0xCF 0x09 then .dad pair
  else if matchesPattern op 0xCF 0x03 then .inx pair
  else if matchesPattern op 0xCF 0x0B then .dcx pair
  else if matchesPattern op 0xEF 0x02 then .stax index
  else if matchesPattern op 0xEF 0x0A then .ldax index
  else if matchesPattern op 0xC7 0x04 then onRegisterOrM target .inrR .inrM
  else if matchesPattern op 0xC7 0x05 then onRegisterOrM target .dcrR .dcrM
  else match (singleByteSpecials b2 b3).lookup op with
  | some i => i
  | none =>
    if op = 0x76 then .hlt
    else if matchesPattern op 0xC0 0x40 then
      match target, source with
      | .reg dst, .reg src => .movRR dst src
      | .reg dst, .m => .movRM dst
      | .m, .reg src => .movMR src
      | .m, .m => .unimplemented op
    else if matchesPattern op 0xF8 0x80 then .add source
    else if matchesPattern op 0xF8 0x88 then .adc source
    else if matchesPattern op 0xF8 0x90 then .sub source
    else if matchesPattern op 0xF8 0x98 then .sbb source
    else if matchesPattern op 0xF8 0xA0 then .ana source
    else if matchesPattern op 0xF8 0xA8 then .xra source
    else if matchesPattern op 0xF8 0xB0 then .ora source
    else if matchesPattern op 0xF8 0xB8 then .cmp source
    else match (enumeratedRows b2 b3).lookup op with
    | some i => i
    | none => .unimplemented op

/-! ## The encoder -/

/-- The register codes (rules R21, R86). -/
def regCode : Reg → BitVec 3
  | .b => 0
  | .c => 1
  | .d => 2
  | .e => 3
  | .h => 4
  | .l => 5
  | .a => 7

/-- The source codes: a register's, or 6 for M (rule R86). -/
def operandCode : Operand → BitVec 3
  | .reg r => regCode r
  | .m => 6

/-- The pair codes of LXI, DAD, INX, DCX (rule R87). -/
def pairCode : RegPair → BitVec 2
  | .bc => 0
  | .de => 1
  | .hl => 2
  | .sp => 3

/-- The pair codes of PUSH and POP (rule R87). -/
def stackPairCode : StackPair → BitVec 2
  | .bc => 0
  | .de => 1
  | .hl => 2

/-- The pair bit of STAX and LDAX (rule R87). -/
def indexPairCode : IndexPair → BitVec 1
  | .bc => 0
  | .de => 1

/-- The condition codes (rule R88). -/
def condCode : Cond → BitVec 3
  | .nz => 0
  | .z => 1
  | .nc => 2
  | .c => 3
  | .po => 4
  | .pe => 5
  | .p => 6
  | .m => 7

/-- Format S, `10ooosss` (rules R85, R89). -/
def aluOpcode (ooo : BitVec 3) (src : Operand) : Byte := 0b10#2 ++ ooo ++ operandCode src

/-- Format I, `11ooo110` (rules R85, R89). -/
def immOpcode (ooo : BitVec 3) : Byte := 0b11#2 ++ ooo ++ 0b110#3

/-- Format CC, `11ccc` and the three bits that say return, jump or call (rule R85). -/
def condOpcode (cond : Cond) (kind : BitVec 3) : Byte := 0b11#2 ++ condCode cond ++ kind

/-- The two operand bytes of a 16-bit operand, low byte first (rules R54, R82). -/
def wordBytes (v : Word) : List Byte := [loByte v, hiByte v]

/-- The bytes of an instruction, from the formats of rule R85 and the byte values of rules R91, R94. -/
def encode : Instr → List Byte
  | .movRR dst src => [0b01#2 ++ regCode dst ++ regCode src]
  | .movRM dst => [0b01#2 ++ regCode dst ++ 0b110#3]
  | .movMR src => [0b01110#5 ++ regCode src]
  | .mviR dst imm => [0b00#2 ++ regCode dst ++ 0b110#3, imm]
  | .mviM imm => [0x36, imm]
  | .lxi pair imm16 => (0b00#2 ++ pairCode pair ++ 0b0001#4) :: wordBytes imm16
  | .lda addr => 0x3A :: wordBytes addr
  | .sta addr => 0x32 :: wordBytes addr
  | .ldax pair => [0b000#3 ++ indexPairCode pair ++ 0b1010#4]
  | .stax pair => [0b000#3 ++ indexPairCode pair ++ 0b0010#4]
  | .lhld addr => 0x2A :: wordBytes addr
  | .shld addr => 0x22 :: wordBytes addr
  | .xchg => [0xEB]
  | .add src => [aluOpcode 0 src]
  | .adc src => [aluOpcode 1 src]
  | .sub src => [aluOpcode 2 src]
  | .sbb src => [aluOpcode 3 src]
  | .ana src => [aluOpcode 4 src]
  | .xra src => [aluOpcode 5 src]
  | .ora src => [aluOpcode 6 src]
  | .cmp src => [aluOpcode 7 src]
  | .adi imm => [immOpcode 0, imm]
  | .aci imm => [immOpcode 1, imm]
  | .sui imm => [immOpcode 2, imm]
  | .sbi imm => [immOpcode 3, imm]
  | .ani imm => [immOpcode 4, imm]
  | .xri imm => [immOpcode 5, imm]
  | .ori imm => [immOpcode 6, imm]
  | .cpi imm => [immOpcode 7, imm]
  | .inrR dst => [0b00#2 ++ regCode dst ++ 0b100#3]
  | .inrM => [0x34]
  | .dcrR dst => [0b00#2 ++ regCode dst ++ 0b101#3]
  | .dcrM => [0x35]
  | .inx pair => [0b00#2 ++ pairCode pair ++ 0b0011#4]
  | .dcx pair => [0b00#2 ++ pairCode pair ++ 0b1011#4]
  | .dad pair => [0b00#2 ++ pairCode pair ++ 0b1001#4]
  | .daa => [0x27]
  | .rlc => [0x07]
  | .rrc => [0x0F]
  | .ral => [0x17]
  | .rar => [0x1F]
  | .cma => [0x2F]
  | .stc => [0x37]
  | .cmc => [0x3F]
  | .jmp addr => 0xC3 :: wordBytes addr
  | .jnz addr => condOpcode .nz 0b010 :: wordBytes addr
  | .jz addr => condOpcode .z 0b010 :: wordBytes addr
  | .jnc addr => condOpcode .nc 0b010 :: wordBytes addr
  | .jc addr => condOpcode .c 0b010 :: wordBytes addr
  | .jpo addr => condOpcode .po 0b010 :: wordBytes addr
  | .jpe addr => condOpcode .pe 0b010 :: wordBytes addr
  | .jp addr => condOpcode .p 0b010 :: wordBytes addr
  | .jm addr => condOpcode .m 0b010 :: wordBytes addr
  | .call addr => 0xCD :: wordBytes addr
  | .cnz addr => condOpcode .nz 0b100 :: wordBytes addr
  | .cz addr => condOpcode .z 0b100 :: wordBytes addr
  | .cnc addr => condOpcode .nc 0b100 :: wordBytes addr
  | .cc addr => condOpcode .c 0b100 :: wordBytes addr
  | .cpo addr => condOpcode .po 0b100 :: wordBytes addr
  | .cpe addr => condOpcode .pe 0b100 :: wordBytes addr
  | .cp addr => condOpcode .p 0b100 :: wordBytes addr
  | .cm addr => condOpcode .m 0b100 :: wordBytes addr
  | .ret => [0xC9]
  | .rnz => [condOpcode .nz 0b000]
  | .rz => [condOpcode .z 0b000]
  | .rnc => [condOpcode .nc 0b000]
  | .rc => [condOpcode .c 0b000]
  | .rpo => [condOpcode .po 0b000]
  | .rpe => [condOpcode .pe 0b000]
  | .rp => [condOpcode .p 0b000]
  | .rm => [condOpcode .m 0b000]
  | .rst n => [0b11#2 ++ n ++ 0b111#3]
  | .pchl => [0xE9]
  | .sphl => [0xF9]
  | .push pair => [0b11#2 ++ stackPairCode pair ++ 0b0101#4]
  | .pushPsw => [0xF5]
  | .pop pair => [0b11#2 ++ stackPairCode pair ++ 0b0001#4]
  | .popPsw => [0xF1]
  | .xthl => [0xE3]
  | .inPort port => [0xDB, port]
  | .outPort port => [0xD3, port]
  | .ei => [0xFB]
  | .di => [0xF3]
  | .rim => [0x20]
  | .sim => [0x30]
  | .hlt => [0x76]
  | .unimplemented byte => [byte]

/-! ## The numbering of spec/opcode_table.json -/

/-- Byte `k` of an instruction whose bits are `w` and number `nbits`: bits `8k+7` to `8k`, and 0 above
`nbits`. -/
def tableByte (nbits w k : Nat) : Byte := BitVec.ofNat 8 (w % 2 ^ nbits / 256 ^ k)

/-- The instruction the decoder reads from the bits `w` of a table row, operand bytes the row gives no
bits being 0. Every byte has a decoding (rule R81), so the answer is always `some`. -/
def decodeTableWord (nbits w : Nat) : Option Instr :=
  some (decode (tableByte nbits w 0) (tableByte nbits w 1) (tableByte nbits w 2))

end Sys2Proof
end

