-- ==== Sys2Proof/Config.lean ====
section
/-! DEFINITION. The three open parameters of the core (spec 00_scope.md rule R8, spec
92_eei_decisions.md "Open parameters, collected"): `SP_RESET`, `MEM_INIT` and `IoRead`. The spec
names no other parameter. -/

namespace Sys2Proof

/-- `SP_RESET`, the value of SP after reset (rules R8, R39, R340). The spec leaves it open; 0x0000 is
the value its examples use. DESIGN CHOICE, unsafe: notes/assumptions/1.md. -/
def Config.spReset : Word := 0x0000

/-- The default of `MEM_INIT`, 0x00 everywhere (rules R8, R51, R341): what an address that `Memory` does not
list reads as, and so what every cell of `State.reset` holds. `State.create` takes any `MEM_INIT` as an
argument. DESIGN CHOICE, unsafe: notes/assumptions/2.md. -/
def Config.memInit (_address : Nat) : Byte := 0x00

/-- `IoRead`, the byte the environment supplies to the `occurrence`-th executed IN, for the port that
IN names (rules R8, R56, R281). A free value: it has no body, so nothing can be proved of the byte.
notes/assumptions/3.md. -/
opaque Config.ioRead (occurrence : Nat) (port : Byte) : Byte

end Sys2Proof
end

