-- ==== Sys2Proof/Machine/State.lean ====
section
/-! DEFINITION. The whole state of one core (spec 10_state.md), as plain data, and the reasons a step can
stop. -/

namespace Sys2Proof.Machine

/-- The register file (rule R20). -/
structure Regs where
  a : Byte
  b : Byte
  c : Byte
  d : Byte
  e : Byte
  h : Byte
  l : Byte
  deriving DecidableEq, Repr

/-- The five meaningful bits of F (rule R29). -/
inductive Flag where
  | s | z | ac | p | cy
  deriving DecidableEq, Repr

/-- The memory (rule R50): the cells whose byte differs from `Config.memInit`, by rising address. A
memory in that form satisfies `Memory.wf`. -/
abbrev Memory := List Host.Cell

/-- The event `IoWrite(port, value)` (rules R56, R282). -/
structure IoWrite where
  port : Byte
  value : Byte
  deriving DecidableEq, Repr

/-- "The whole state of one core is: seven 8-bit registers, PC, SP, the flag field F, the two 1-bit
latches IE and HALTED, and the 65,536 memory cells. Nothing else is state." (10_state.md). The last two
fields are the model's own: how many bytes IN has drawn, which is the history `IoRead` depends on
(rule R8; notes/assumptions/3.md), and the events OUT has sent, in the order executed (rule R282;
notes/assumptions/4.md). -/
structure State where
  regs : Regs
  f : Byte
  pc : Word
  sp : Word
  ie : Bool
  halted : Bool
  mem : Memory
  ioReads : Nat
  ioWrites : List IoWrite
  deriving DecidableEq, Repr

/-- The core's one error (rules R300, R304); `InvalidRegisterIndex` is left out, notes/assumptions/8.md. -/
inductive Fault where
  /-- `UnimplementedOpcode(byte)` with the PC at which the byte was fetched (rules R296, R301). Raised by
  the meaning of `Instr.unimplemented`. Safe: the spec gives the same error, and no state changes. -/
  | unimplementedOpcode (byte : Byte) (pc : Word)
  deriving DecidableEq, Repr

/-- Why the model has no meaning for an instruction. -/
inductive Refusal where
  /-- Raised by an arm of `exec` whose instruction has no meaning yet; no arm does. Safe: the model stops
  where the hardware goes on. -/
  | notModelled (mnemonic : String)
  deriving DecidableEq, Repr

/-- The core as `reset()` and creation leave it (rules R39, R340, R341), over a given memory: the registers,
F, PC, IE and HALTED clear, SP at `SP_RESET`. The port records are empty (notes/assumptions/3.md,
notes/assumptions/4.md). -/
def State.cleared (spReset : Word) (mem : Memory) : State where
  regs := { a := 0, b := 0, c := 0, d := 0, e := 0, h := 0, l := 0 }
  f := 0
  pc := 0
  sp := spReset
  ie := false
  halted := false
  mem := mem
  ioReads := 0
  ioWrites := []

/-- The machine right after creation and reset, with this configuration's `SP_RESET` and `MEM_INIT` (rules
R39, R340, R341): no cell is listed. For any other parameters see `State.create`. -/
def State.reset : State := State.cleared Config.spReset []

end Sys2Proof.Machine
end

