-- ==== Sys2Proof/Machine/Ops.lean ====
section
/-! DEFINITION. The named operations over memory, registers, the stack and the ports, instruction
fetch, the core's error, and the two environment operations that write state. -/

namespace Sys2Proof.Machine

/-! ## Memory (spec 20_memory.md rules R50, R51, R58, R60) -/

/-- The byte in cell `address`: as listed, else `Config.memInit` (rule R51). A memory of any other
`MEM_INIT` lists the cells that differ (`Memory.ofInit`). -/
def Memory.read : Memory → Nat → Byte
  | [], address => Config.memInit address
  | (a, v) :: rest, address => if a = address then v else Memory.read rest address

/-- The memory without a listed byte at `address`. -/
def Memory.erase (m : Memory) (address : Nat) : Memory := m.filter (·.1 != address)

/-- The memory with `value` listed at `address`, in rising order. -/
def Memory.insert : Memory → Nat → Byte → Memory
  | [], address, value => [(address, value)]
  | (a, v) :: rest, address, value =>
    if a < address then (a, v) :: Memory.insert rest address value
    else if a = address then (address, value) :: rest
    else (address, value) :: (a, v) :: rest

/-- The memory after cell `address` becomes `value`, keeping the canonical form. -/
def Memory.write (m : Memory) (address : Nat) (value : Byte) : Memory :=
  if value = Config.memInit address then m.erase address else m.insert address value

/-- The canonical form: addresses strictly rising, all of them cells of the 65,536 (rule R50), and no
entry equal to what an unlisted address reads as. -/
abbrev Memory.wf (m : Memory) : Prop :=
  m.Pairwise (fun x y => x.1 < y.1) ∧ ∀ x ∈ m, x.1 < 65536 ∧ x.2 ≠ Config.memInit x.1

/-- The cells at `addresses` as `byteAt` gives them, those that hold what an unlisted cell reads as left
out. -/
def Memory.listed (byteAt : Nat → Byte) (addresses : List Nat) : Memory :=
  (addresses.filter fun a => byteAt a != Config.memInit a).map fun a => (a, byteAt a)

/-- The 65,536 addresses (rule R50), rising. Irreducible so that no proof evaluates them by accident: use
`Memory.mem_addresses` and `Memory.addresses_rising`. -/
@[irreducible] def Memory.addresses : List Nat := List.range 65536

/-- The memory at creation: each cell holds `MEM_INIT` of its address (rules R8, R341). -/
def Memory.ofInit (memInit : Word → Byte) : Memory :=
  Memory.listed (fun a => memInit (BitVec.ofNat 16 a)) Memory.addresses

/-- `MemRead(address, 1)` (rule R13). A `Word` address is already reduced modulo 65536 (rule R51). -/
def State.readMem (s : State) (address : Word) : Byte := Memory.read s.mem address.toNat

/-- `MemWrite(address, 1, value)` (rule R13). -/
def State.writeMem (s : State) (address : Word) (value : Byte) : State :=
  { s with mem := Memory.write s.mem address.toNat value }

/-! ## Registers (spec 10_state.md rules R20 to R24) -/

/-- `r[X]` (rule R13). -/
def Regs.get (rs : Regs) : Reg → Byte
  | .a => rs.a
  | .b => rs.b
  | .c => rs.c
  | .d => rs.d
  | .e => rs.e
  | .h => rs.h
  | .l => rs.l

/-- `r[X] <- value` (rule R13). -/
def Regs.set (rs : Regs) (r : Reg) (value : Byte) : Regs :=
  match r with
  | .a => { rs with a := value }
  | .b => { rs with b := value }
  | .c => { rs with c := value }
  | .d => { rs with d := value }
  | .e => { rs with e := value }
  | .h => { rs with h := value }
  | .l => { rs with l := value }

/-- `r[X]` in a state. -/
def State.getReg (s : State) (r : Reg) : Byte := s.regs.get r

/-- `r[X] <- value` in a state. -/
def State.setReg (s : State) (r : Reg) (value : Byte) : State :=
  { s with regs := s.regs.set r value }

/-- `{r[hi], r[lo]}` (rules R13, R24). -/
def State.pairOf (s : State) (hi lo : Reg) : Word := wordOf (s.getReg hi) (s.getReg lo)

/-- Writes both registers of a pair (rule R24). -/
def State.setPairOf (s : State) (hi lo : Reg) (value : Word) : State :=
  (s.setReg hi (hiByte value)).setReg lo (loByte value)

/-- `HL`, the address of the M operand (rules R24, R37, R133). -/
def State.hl (s : State) : Word := s.pairOf .h .l

/-- F replaced whole. -/
def State.setF (s : State) (f : Byte) : State := { s with f := f }

/-- `PC <- v`. -/
def State.setPc (s : State) (pc : Word) : State := { s with pc := pc }

/-- `SP <- v`. -/
def State.setSp (s : State) (sp : Word) : State := { s with sp := sp }

/-- `IE <- v` (rule R35). -/
def State.setIe (s : State) (ie : Bool) : State := { s with ie := ie }

/-- `HALTED <- v` (rule R36). -/
def State.setHalted (s : State) (halted : Bool) : State := { s with halted := halted }

/-! ## How an instruction ends (spec 10_state.md rules R26, R27) -/

/-- The instruction of `length` bytes completes and PC moves past it, modulo 65536. -/
def State.advance (s : State) (length : Word) : Host.Outcome State Fault Refusal :=
  .next (s.setPc (s.pc + length))

/-- The instruction completes and PC becomes `target`. -/
def State.jumpTo (s : State) (target : Word) : Host.Outcome State Fault Refusal :=
  .next (s.setPc target)

/-- The core's only abnormal outcome: the step ends with `UnimplementedOpcode(byte, PC)` and changes no
state (spec 60_exceptions.md rules R301, R308). There is no trap entry, so nothing is saved and control
goes nowhere; hence there is no return from it either (rule R309; notes/assumptions/10.md). -/
def raiseUnimplementedOpcode (byte : Byte) (s : State) : Host.Outcome State Fault Refusal :=
  .fault (.unimplementedOpcode byte s.pc)

/-! ## The stack primitives (spec 44_stack.md rules R260, R261) -/

/-- `Push16(v)`: high byte at SP-1, low byte at SP-2, then SP -= 2 (rule R260). -/
def State.push16 (s : State) (v : Word) : State :=
  ((s.writeMem (s.sp - 1) (hiByte v)).writeMem (s.sp - 2) (loByte v)).setSp (s.sp - 2)

/-- The word at the top of the stack, low byte at SP and high byte at SP+1 (rules R261, R266). -/
def State.topOfStack (s : State) : Word := wordOf (s.readMem (s.sp + 1)) (s.readMem s.sp)

/-- What `Pop16()` does to the state beside returning `topOfStack`: SP += 2 (rule R261). -/
def State.popped (s : State) : State := s.setSp (s.sp + 2)

/-! ## The ports (spec 20_memory.md rule R56) -/

/-- `IoRead(port)`: the byte the environment supplies to the IN being executed. -/
def State.ioByte (s : State) (port : Byte) : Byte := Config.ioRead s.ioReads port

/-- The draw is used up: the next IN draws anew (rule R56). -/
def State.countIoRead (s : State) : State := { s with ioReads := s.ioReads + 1 }

/-- `IoWrite(port, value)`, recorded after the events before it (rule R282). -/
def State.emitIoWrite (s : State) (port value : Byte) : State :=
  { s with ioWrites := s.ioWrites ++ [{ port := port, value := value }] }

/-! ## Instruction fetch (spec 30_encoding.md rules R82, R84, 45_io_control.md rule R293) -/

/-- The instruction at PC, read from memory as it is now (rule R67). Both operand bytes are read for
every instruction, as rule R84 allows; `decode` ignores those its instruction does not use
(notes/assumptions/11.md). -/
def State.fetchInstr (s : State) : Instr :=
  decode (s.readMem s.pc) (s.readMem (s.pc + 1)) (s.readMem (s.pc + 2))

/-! ## Creation, and the environment's operations that write state (spec 70_reset_and_hazards.md rules R340,
R341, R345) -/

/-- The core at creation (rule R341), with `SP_RESET` and `MEM_INIT` as arguments (rule R8). -/
def State.create (spReset : Word) (memInit : Word → Byte) : State :=
  State.cleared spReset (Memory.ofInit memInit)

/-- `load(bytes, origin)`: cell `(origin + i) mod 65536` receives byte `i`, in increasing `i` (rule
R345). -/
def State.load (s : State) : List Byte → Word → State
  | [], _ => s
  | v :: rest, origin => (s.writeMem origin v).load rest (origin + 1)

/-- `reset()` (rule R340), with `SP_RESET` as its argument (rule R8). Memory is unchanged, and so is the
model's record of the ports (notes/assumptions/7.md). -/
def State.resetOp (s : State) (spReset : Word) : State :=
  { State.cleared spReset s.mem with ioReads := s.ioReads, ioWrites := s.ioWrites }

end Sys2Proof.Machine
end

