-- ==== Sys2Proof/Machine/Flags.lean ====
section
/-! DEFINITION. The flag field and every flag computation (spec 10_state.md rules R29 to R33,
41_arithmetic_logic.md rules R150 to R156, 42_incdec_dad_daa_rotate.md rules R206, R207, 43_branch_control.md
rule R231). Bits 5, 3 and 1 of F are never touched here (rule R156). -/

namespace Sys2Proof.Machine

/-- The flag's place in F (rule R29). -/
def Flag.bit : Flag → Nat
  | .s => 7
  | .z => 6
  | .ac => 4
  | .p => 2
  | .cy => 0

/-- One flag of a flag byte. -/
def getFlag (f : Byte) (g : Flag) : Bool := f.getLsbD g.bit

/-- A flag byte with one flag written and the other seven bits kept. -/
def setFlag (f : Byte) (g : Flag) (value : Bool) : Byte :=
  if value then f ||| (1#8 <<< g.bit) else f &&& ~~~(1#8 <<< g.bit)

/-- `F.S`, `F.Z`, `F.AC`, `F.P`, `F.CY` (rule R13). -/
def State.flag (s : State) (g : Flag) : Bool := getFlag s.f g

/-- S, Z and P from the 8-bit result alone, for every kind (rule R151). -/
def setSZP (f res : Byte) : Byte :=
  setFlag (setFlag (setFlag f .s (res.getLsbD 7)) .z (res == 0)) .p (parityEven res)

/-- AC and CY written. -/
def setCarries (f : Byte) (ac cy : Bool) : Byte := setFlag (setFlag f .ac ac) .cy cy

/-! ## The add, subtract and logical kinds -/

/-- The low four bits of a byte as a number. -/
def lowNibble (v : Byte) : Nat := v.toNat % 16

/-- The carry or borrow in as a byte. -/
def carryByte (c : Bool) : Byte := BitVec.ofNat 8 c.toNat

/-- The 8-bit sum (rule R152). -/
def addResult (a b : Byte) (c : Bool) : Byte := a + b + carryByte c

/-- Carry out of bit 7 (rule R152). -/
def addCy (a b : Byte) (c : Bool) : Bool := decide (a.toNat + b.toNat + c.toNat > 255)

/-- Carry out of bit 3 (rule R152). -/
def addAc (a b : Byte) (c : Bool) : Bool := decide (lowNibble a + lowNibble b + c.toNat > 15)

/-- All five flags of the add kind (rules R151, R152). -/
def addFlags (f a b : Byte) (c : Bool) : Byte :=
  setCarries (setSZP f (addResult a b c)) (addAc a b c) (addCy a b c)

/-- The 8-bit difference (rule R153). -/
def subResult (a b : Byte) (c : Bool) : Byte := a - b - carryByte c

/-- Borrow out of bit 7 (rule R153). -/
def subCy (a b : Byte) (c : Bool) : Bool := decide (a.toNat < b.toNat + c.toNat)

/-- Borrow out of bit 3 (rule R153). -/
def subAc (a b : Byte) (c : Bool) : Bool := decide (lowNibble a < lowNibble b + c.toNat)

/-- All five flags of the subtract kind (rules R151, R153). -/
def subFlags (f a b : Byte) (c : Bool) : Byte :=
  setCarries (setSZP f (subResult a b c)) (subAc a b c) (subCy a b c)

/-- The flags of the logical kind: S, Z, P from the result, AC and CY cleared (rules R151, R154). -/
def logicFlags (f res : Byte) : Byte := setCarries (setSZP f res) false false

/-! ## The INR and DCR variant: CY is not written (rule R155) -/

/-- INR's flags: the add kind with `b = 1`, `c = 0`, less CY (rules R155, R200). -/
def incFlags (f v : Byte) : Byte := setFlag (setSZP f (addResult v 1 false)) .ac (addAc v 1 false)

/-- DCR's flags: the subtract kind with `b = 1`, `c = 0`, less CY (rules R155, R202). -/
def decFlags (f v : Byte) : Byte := setFlag (setSZP f (subResult v 1 false)) .ac (subAc v 1 false)

/-! ## DAD and DAA -/

/-- DAD's carry, from 16-bit overflow (rule R206). -/
def dadCy (x y : Word) : Bool := decide (x.toNat + y.toNat > 65535)

/-- DAA's condition for adding 0x06 (rule R207). -/
def daaLow (a : Byte) (ac : Bool) : Bool := ac || decide (lowNibble a > 9)

/-- DAA's condition for adding 0x60, which is also its new CY (rule R207). -/
def daaHigh (a : Byte) (cy : Bool) : Bool :=
  cy || decide (a.toNat / 16 > 9) || (decide (a.toNat / 16 ≥ 9) && decide (lowNibble a > 9))

/-- DAA's `adj` (rule R207). -/
def daaAdjust (a : Byte) (ac cy : Bool) : Byte :=
  (if daaLow a ac then 0x06 else 0) + (if daaHigh a cy then 0x60 else 0)

/-- DAA's flags (rule R207): AC is the carry out of bit 3 of `a + adj`. -/
def daaFlags (f a : Byte) : Byte :=
  let adj := daaAdjust a (getFlag f .ac) (getFlag f .cy)
  setCarries (setSZP f (a + adj)) (addAc a adj false) (daaHigh a (getFlag f .cy))

/-! ## Conditions -/

/-- `Cond(ccc)` (rules R88, R231). -/
def State.condHolds (s : State) : Cond → Bool
  | .nz => !s.flag .z
  | .z => s.flag .z
  | .nc => !s.flag .cy
  | .c => s.flag .cy
  | .po => !s.flag .p
  | .pe => s.flag .p
  | .p => !s.flag .s
  | .m => s.flag .s

end Sys2Proof.Machine
end

