-- ==== Sys2Proof/Machine/Operands.lean ====
section
/-! DEFINITION. Reading and writing what an operand field names (spec 00_scope.md rule R13, 10_state.md
rules R21, R22, R24, 30_encoding.md rule R87, 41_arithmetic_logic.md rule R157). Code 6 is diverted to
memory at HL before the register file is addressed, so `InvalidRegisterIndex` cannot arise
(60_exceptions.md rule R302). -/

namespace Sys2Proof.Machine

/-- `Reg(c)`: a register, or the memory byte at HL (rules R13, R133, R157). -/
def State.readOperand (s : State) : Operand → Byte
  | .reg r => s.getReg r
  | .m => s.readMem s.hl

/-- `Pair(p)` of LXI, DAD, INX, DCX (rule R13). -/
def State.readPair (s : State) : RegPair → Word
  | .bc => s.pairOf .b .c
  | .de => s.pairOf .d .e
  | .hl => s.pairOf .h .l
  | .sp => s.sp

/-- `SetPair(p, v)` (rules R13, R125). -/
def State.writePair (s : State) (pair : RegPair) (v : Word) : State :=
  match pair with
  | .bc => s.setPairOf .b .c v
  | .de => s.setPairOf .d .e v
  | .hl => s.setPairOf .h .l v
  | .sp => s.setSp v

/-- The pair that PUSH stores (rule R262). -/
def State.readStackPair (s : State) : StackPair → Word
  | .bc => s.pairOf .b .c
  | .de => s.pairOf .d .e
  | .hl => s.pairOf .h .l

/-- The pair that POP loads (rule R264). -/
def State.writeStackPair (s : State) (pair : StackPair) (v : Word) : State :=
  match pair with
  | .bc => s.setPairOf .b .c v
  | .de => s.setPairOf .d .e v
  | .hl => s.setPairOf .h .l v

/-- The address in BC or DE that LDAX and STAX use (rules R128, R129). -/
def State.indexAddress (s : State) : IndexPair → Word
  | .bc => s.pairOf .b .c
  | .de => s.pairOf .d .e

end Sys2Proof.Machine
end

