-- ==== Sys2Proof/Machine/Arithmetic.lean ====
section
/-! DEFINITION. Accumulator arithmetic and logic, register, M and immediate forms (spec
41_arithmetic_logic.md). The first operand is the old A and the second is `b` (rule R157). -/

namespace Sys2Proof.Machine

/-! ## The operations, over the second operand `b` and the carry or borrow in `c` -/

/-- The add kind: A and all five flags written (rules R150 to R152). -/
def State.addToA (s : State) (b : Byte) (c : Bool) : State :=
  (s.setReg .a (addResult (s.getReg .a) b c)).setF (addFlags s.f (s.getReg .a) b c)

/-- The comparison: the flags of the subtract kind, A kept (rules R150, R151, R153, R167). -/
def State.compareA (s : State) (b : Byte) (c : Bool) : State :=
  s.setF (subFlags s.f (s.getReg .a) b c)

/-- The subtract kind: A and all five flags written (rules R150, R151, R153). -/
def State.subFromA (s : State) (b : Byte) (c : Bool) : State :=
  (s.compareA b c).setReg .a (subResult (s.getReg .a) b c)

/-- The logical kind: A written, S Z P computed, AC and CY cleared (rules R150, R151, R154). -/
def State.logicToA (s : State) (res : Byte) : State :=
  (s.setReg .a res).setF (logicFlags s.f res)

/-! ## Register and M forms -/

/-- ADD s (rule R160). -/
def execAdd (src : Operand) (s : State) : Host.Outcome State Fault Refusal :=
  (s.addToA (s.readOperand src) false).advance 1

/-- ADC s (rule R161). -/
def execAdc (src : Operand) (s : State) : Host.Outcome State Fault Refusal :=
  (s.addToA (s.readOperand src) (s.flag .cy)).advance 1

/-- SUB s (rule R162). -/
def execSub (src : Operand) (s : State) : Host.Outcome State Fault Refusal :=
  (s.subFromA (s.readOperand src) false).advance 1

/-- SBB s (rule R163). -/
def execSbb (src : Operand) (s : State) : Host.Outcome State Fault Refusal :=
  (s.subFromA (s.readOperand src) (s.flag .cy)).advance 1

/-- ANA s (rule R164). -/
def execAna (src : Operand) (s : State) : Host.Outcome State Fault Refusal :=
  (s.logicToA (s.getReg .a &&& s.readOperand src)).advance 1

/-- XRA s (rule R165). -/
def execXra (src : Operand) (s : State) : Host.Outcome State Fault Refusal :=
  (s.logicToA (s.getReg .a ^^^ s.readOperand src)).advance 1

/-- ORA s (rule R166). -/
def execOra (src : Operand) (s : State) : Host.Outcome State Fault Refusal :=
  (s.logicToA (s.getReg .a ||| s.readOperand src)).advance 1

/-- CMP s (rule R167). -/
def execCmp (src : Operand) (s : State) : Host.Outcome State Fault Refusal :=
  (s.compareA (s.readOperand src) false).advance 1

/-! ## Immediate forms -/

/-- ADI d8 (rule R170). -/
def execAdi (imm : Byte) (s : State) : Host.Outcome State Fault Refusal :=
  (s.addToA imm false).advance 2

/-- ACI d8 (rule R171). -/
def execAci (imm : Byte) (s : State) : Host.Outcome State Fault Refusal :=
  (s.addToA imm (s.flag .cy)).advance 2

/-- SUI d8 (rule R172). -/
def execSui (imm : Byte) (s : State) : Host.Outcome State Fault Refusal :=
  (s.subFromA imm false).advance 2

/-- SBI d8 (rule R173). -/
def execSbi (imm : Byte) (s : State) : Host.Outcome State Fault Refusal :=
  (s.subFromA imm (s.flag .cy)).advance 2

/-- ANI d8 (rule R174). -/
def execAni (imm : Byte) (s : State) : Host.Outcome State Fault Refusal :=
  (s.logicToA (s.getReg .a &&& imm)).advance 2

/-- XRI d8 (rule R175). -/
def execXri (imm : Byte) (s : State) : Host.Outcome State Fault Refusal :=
  (s.logicToA (s.getReg .a ^^^ imm)).advance 2

/-- ORI d8 (rule R176). -/
def execOri (imm : Byte) (s : State) : Host.Outcome State Fault Refusal :=
  (s.logicToA (s.getReg .a ||| imm)).advance 2

/-- CPI d8 (rule R177). -/
def execCpi (imm : Byte) (s : State) : Host.Outcome State Fault Refusal :=
  (s.compareA imm false).advance 2

end Sys2Proof.Machine
end

