-- ==== Sys2Proof/Machine/Branch.lean ====
section
/-! DEFINITION. Branch and control transfer (spec 43_branch_control.md). None writes a flag, a general
register, IE or HALTED, and none faults (rule R230). -/

namespace Sys2Proof.Machine

/-! ## The shared operations -/

/-- A conditional jump of three bytes (rules R232, R234). -/
def State.jumpIf (s : State) (taken : Bool) (addr : Word) : Host.Outcome State Fault Refusal :=
  if taken then s.jumpTo addr else s.advance 3

/-- Pushes the address of the instruction after this one of `length` bytes and goes to `target` (rules
R235, R239). -/
def State.callTo (s : State) (length target : Word) : Host.Outcome State Fault Refusal :=
  (s.push16 (s.pc + length)).jumpTo target

/-- A conditional call of three bytes (rules R232, R236). -/
def State.callIf (s : State) (taken : Bool) (addr : Word) : Host.Outcome State Fault Refusal :=
  if taken then s.callTo 3 addr else s.advance 3

/-- Pops PC (rule R237). -/
def State.returnToCaller (s : State) : Host.Outcome State Fault Refusal :=
  s.popped.jumpTo s.topOfStack

/-- A conditional return of one byte (rules R232, R238). -/
def State.returnIf (s : State) (taken : Bool) : Host.Outcome State Fault Refusal :=
  if taken then s.returnToCaller else s.advance 1

/-! ## Jumps -/

/-- JMP a16 (rule R233). -/
def execJmp (addr : Word) (s : State) : Host.Outcome State Fault Refusal := s.jumpTo addr

/-- JNZ a16 (rule R234). -/
def execJnz (addr : Word) (s : State) : Host.Outcome State Fault Refusal :=
  s.jumpIf (s.condHolds .nz) addr

/-- JZ a16 (rule R234). -/
def execJz (addr : Word) (s : State) : Host.Outcome State Fault Refusal :=
  s.jumpIf (s.condHolds .z) addr

/-- JNC a16 (rule R234). -/
def execJnc (addr : Word) (s : State) : Host.Outcome State Fault Refusal :=
  s.jumpIf (s.condHolds .nc) addr

/-- JC a16 (rule R234). -/
def execJc (addr : Word) (s : State) : Host.Outcome State Fault Refusal :=
  s.jumpIf (s.condHolds .c) addr

/-- JPO a16 (rule R234). -/
def execJpo (addr : Word) (s : State) : Host.Outcome State Fault Refusal :=
  s.jumpIf (s.condHolds .po) addr

/-- JPE a16 (rule R234). -/
def execJpe (addr : Word) (s : State) : Host.Outcome State Fault Refusal :=
  s.jumpIf (s.condHolds .pe) addr

/-- JP a16 (rule R234). -/
def execJp (addr : Word) (s : State) : Host.Outcome State Fault Refusal :=
  s.jumpIf (s.condHolds .p) addr

/-- JM a16 (rule R234). -/
def execJm (addr : Word) (s : State) : Host.Outcome State Fault Refusal :=
  s.jumpIf (s.condHolds .m) addr

/-! ## Calls -/

/-- CALL a16 (rule R235). -/
def execCall (addr : Word) (s : State) : Host.Outcome State Fault Refusal := s.callTo 3 addr

/-- CNZ a16 (rule R236). -/
def execCnz (addr : Word) (s : State) : Host.Outcome State Fault Refusal :=
  s.callIf (s.condHolds .nz) addr

/-- CZ a16 (rule R236). -/
def execCz (addr : Word) (s : State) : Host.Outcome State Fault Refusal :=
  s.callIf (s.condHolds .z) addr

/-- CNC a16 (rule R236). -/
def execCnc (addr : Word) (s : State) : Host.Outcome State Fault Refusal :=
  s.callIf (s.condHolds .nc) addr

/-- CC a16 (rule R236). -/
def execCc (addr : Word) (s : State) : Host.Outcome State Fault Refusal :=
  s.callIf (s.condHolds .c) addr

/-- CPO a16 (rule R236). -/
def execCpo (addr : Word) (s : State) : Host.Outcome State Fault Refusal :=
  s.callIf (s.condHolds .po) addr

/-- CPE a16 (rule R236). -/
def execCpe (addr : Word) (s : State) : Host.Outcome State Fault Refusal :=
  s.callIf (s.condHolds .pe) addr

/-- CP a16 (rule R236). -/
def execCp (addr : Word) (s : State) : Host.Outcome State Fault Refusal :=
  s.callIf (s.condHolds .p) addr

/-- CM a16 (rule R236). -/
def execCm (addr : Word) (s : State) : Host.Outcome State Fault Refusal :=
  s.callIf (s.condHolds .m) addr

/-! ## Returns -/

/-- RET (rule R237). -/
def execRet (s : State) : Host.Outcome State Fault Refusal := s.returnToCaller

/-- RNZ (rule R238). -/
def execRnz (s : State) : Host.Outcome State Fault Refusal := s.returnIf (s.condHolds .nz)

/-- RZ (rule R238). -/
def execRz (s : State) : Host.Outcome State Fault Refusal := s.returnIf (s.condHolds .z)

/-- RNC (rule R238). -/
def execRnc (s : State) : Host.Outcome State Fault Refusal := s.returnIf (s.condHolds .nc)

/-- RC (rule R238). -/
def execRc (s : State) : Host.Outcome State Fault Refusal := s.returnIf (s.condHolds .c)

/-- RPO (rule R238). -/
def execRpo (s : State) : Host.Outcome State Fault Refusal := s.returnIf (s.condHolds .po)

/-- RPE (rule R238). -/
def execRpe (s : State) : Host.Outcome State Fault Refusal := s.returnIf (s.condHolds .pe)

/-- RP (rule R238). -/
def execRp (s : State) : Host.Outcome State Fault Refusal := s.returnIf (s.condHolds .p)

/-- RM (rule R238). -/
def execRm (s : State) : Host.Outcome State Fault Refusal := s.returnIf (s.condHolds .m)

/-! ## Restart, PCHL, SPHL -/

/-- The restart address `8 * nnn` (rules R102, R239). -/
def restartAddress (n : BitVec 3) : Word := BitVec.ofNat 16 (8 * n.toNat)

/-- RST n (rule R239). -/
def execRst (n : BitVec 3) (s : State) : Host.Outcome State Fault Refusal :=
  s.callTo 1 (restartAddress n)

/-- PCHL (rule R240). -/
def execPchl (s : State) : Host.Outcome State Fault Refusal := s.jumpTo s.hl

/-- SPHL (rule R241). -/
def execSphl (s : State) : Host.Outcome State Fault Refusal := (s.setSp s.hl).advance 1

end Sys2Proof.Machine
end

