-- ==== Sys2Proof/Machine/Control.lean ====
section
/-! DEFINITION. I/O, control and the byte with no instruction (spec 45_io_control.md). No instruction
here writes a flag or raises an error (rule R280); a byte with no instruction is the core's error (rule
R296). -/

namespace Sys2Proof.Machine

/-- IN p8 (rule R281): A receives a byte about which nothing is assumed. -/
def execInPort (port : Byte) (s : State) : Host.Outcome State Fault Refusal :=
  ((s.setReg .a (s.ioByte port)).countIoRead).advance 2

/-- OUT p8 (rule R282). -/
def execOutPort (port : Byte) (s : State) : Host.Outcome State Fault Refusal :=
  (s.emitIoWrite port (s.getReg .a)).advance 2

/-- EI (rule R284). -/
def execEi (s : State) : Host.Outcome State Fault Refusal := (s.setIe true).advance 1

/-- DI (rule R285). -/
def execDi (s : State) : Host.Outcome State Fault Refusal := (s.setIe false).advance 1

/-- RIM advances PC only (rule R286). -/
def execRim (s : State) : Host.Outcome State Fault Refusal := s.advance 1

/-- SIM advances PC only (rule R287). -/
def execSim (s : State) : Host.Outcome State Fault Refusal := s.advance 1

/-- HLT (rule R292). -/
def execHlt (s : State) : Host.Outcome State Fault Refusal := (s.setHalted true).advance 1

/-- A byte with no instruction: `UnimplementedOpcode(byte, PC)`, no state changed (rules R100, R296,
R301). -/
def execUnimplemented (byte : Byte) (s : State) : Host.Outcome State Fault Refusal :=
  raiseUnimplementedOpcode byte s

end Sys2Proof.Machine
end

