-- ==== Sys2Proof/Machine/DataTransfer.lean ====
section
/-! DEFINITION. Data transfer (spec 40_data_transfer.md). None writes a flag or faults; each advances PC
by its length (rule R134). -/

namespace Sys2Proof.Machine

/-- MOV r1,r2 (rule R120). -/
def execMovRR (dst src : Reg) (s : State) : Host.Outcome State Fault Refusal :=
  (s.setReg dst (s.getReg src)).advance 1

/-- MOV r,M (rule R121). -/
def execMovRM (dst : Reg) (s : State) : Host.Outcome State Fault Refusal :=
  (s.setReg dst (s.readMem s.hl)).advance 1

/-- MOV M,r (rule R122). -/
def execMovMR (src : Reg) (s : State) : Host.Outcome State Fault Refusal :=
  (s.writeMem s.hl (s.getReg src)).advance 1

/-- MVI r,d8 (rule R123). -/
def execMviR (dst : Reg) (imm : Byte) (s : State) : Host.Outcome State Fault Refusal :=
  (s.setReg dst imm).advance 2

/-- MVI M,d8 (rule R124). -/
def execMviM (imm : Byte) (s : State) : Host.Outcome State Fault Refusal :=
  (s.writeMem s.hl imm).advance 2

/-- LXI rp,d16 (rule R125). -/
def execLxi (pair : RegPair) (imm16 : Word) (s : State) : Host.Outcome State Fault Refusal :=
  (s.writePair pair imm16).advance 3

/-- LDA a16 (rule R126). -/
def execLda (addr : Word) (s : State) : Host.Outcome State Fault Refusal :=
  (s.setReg .a (s.readMem addr)).advance 3

/-- STA a16 (rule R127). -/
def execSta (addr : Word) (s : State) : Host.Outcome State Fault Refusal :=
  (s.writeMem addr (s.getReg .a)).advance 3

/-- LDAX rp (rule R128). -/
def execLdax (pair : IndexPair) (s : State) : Host.Outcome State Fault Refusal :=
  (s.setReg .a (s.readMem (s.indexAddress pair))).advance 1

/-- STAX rp (rule R129). -/
def execStax (pair : IndexPair) (s : State) : Host.Outcome State Fault Refusal :=
  (s.writeMem (s.indexAddress pair) (s.getReg .a)).advance 1

/-- LHLD a16 (rule R130). -/
def execLhld (addr : Word) (s : State) : Host.Outcome State Fault Refusal :=
  ((s.setReg .l (s.readMem addr)).setReg .h (s.readMem (addr + 1))).advance 3

/-- SHLD a16 (rule R131). -/
def execShld (addr : Word) (s : State) : Host.Outcome State Fault Refusal :=
  ((s.writeMem addr (s.getReg .l)).writeMem (addr + 1) (s.getReg .h)).advance 3

/-- XCHG (rule R132). -/
def execXchg (s : State) : Host.Outcome State Fault Refusal :=
  ((s.setPairOf .h .l (s.pairOf .d .e)).setPairOf .d .e (s.pairOf .h .l)).advance 1

end Sys2Proof.Machine
end

