-- ==== Sys2Proof/Machine/IncDec.lean ====
section
/-! DEFINITION. Increment, decrement, 16-bit add, decimal adjust, the rotates, CMA, STC and CMC (spec
42_incdec_dad_daa_rotate.md). All are one byte long and none faults (rule R215). -/

namespace Sys2Proof.Machine

/-- INR r (rule R200). -/
def execInrR (dst : Reg) (s : State) : Host.Outcome State Fault Refusal :=
  ((s.setReg dst (addResult (s.getReg dst) 1 false)).setF (incFlags s.f (s.getReg dst))).advance 1

/-- INR M (rule R201). -/
def execInrM (s : State) : Host.Outcome State Fault Refusal :=
  ((s.writeMem s.hl (addResult (s.readMem s.hl) 1 false)).setF
    (incFlags s.f (s.readMem s.hl))).advance 1

/-- DCR r (rule R202). -/
def execDcrR (dst : Reg) (s : State) : Host.Outcome State Fault Refusal :=
  ((s.setReg dst (subResult (s.getReg dst) 1 false)).setF (decFlags s.f (s.getReg dst))).advance 1

/-- DCR M (rule R203). -/
def execDcrM (s : State) : Host.Outcome State Fault Refusal :=
  ((s.writeMem s.hl (subResult (s.readMem s.hl) 1 false)).setF
    (decFlags s.f (s.readMem s.hl))).advance 1

/-- INX rp (rule R204). -/
def execInx (pair : RegPair) (s : State) : Host.Outcome State Fault Refusal :=
  (s.writePair pair (s.readPair pair + 1)).advance 1

/-- DCX rp (rule R205). -/
def execDcx (pair : RegPair) (s : State) : Host.Outcome State Fault Refusal :=
  (s.writePair pair (s.readPair pair - 1)).advance 1

/-- DAD rp (rule R206). -/
def execDad (pair : RegPair) (s : State) : Host.Outcome State Fault Refusal :=
  ((s.setPairOf .h .l (s.hl + s.readPair pair)).setF
    (setFlag s.f .cy (dadCy s.hl (s.readPair pair)))).advance 1

/-- DAA (rule R207). -/
def execDaa (s : State) : Host.Outcome State Fault Refusal :=
  ((s.setReg .a (s.getReg .a + daaAdjust (s.getReg .a) (s.flag .ac) (s.flag .cy))).setF
    (daaFlags s.f (s.getReg .a))).advance 1

/-- A rotate: A and CY written, the other flags kept (rules R208 to R211). -/
def State.rotateA (s : State) (res : Byte) (cy : Bool) : State :=
  (s.setReg .a res).setF (setFlag s.f .cy cy)

/-- RLC: `{a[6:0], a[7]}` (rule R208). -/
def execRlc (s : State) : Host.Outcome State Fault Refusal :=
  let a := s.getReg .a
  (s.rotateA (a.extractLsb' 0 7 ++ a.extractLsb' 7 1) (a.getLsbD 7)).advance 1

/-- RRC: `{a[0], a[7:1]}` (rule R209). -/
def execRrc (s : State) : Host.Outcome State Fault Refusal :=
  let a := s.getReg .a
  (s.rotateA (a.extractLsb' 0 1 ++ a.extractLsb' 1 7) (a.getLsbD 0)).advance 1

/-- RAL: `{a[6:0], c}` (rule R210). -/
def execRal (s : State) : Host.Outcome State Fault Refusal :=
  let a := s.getReg .a
  (s.rotateA (a.extractLsb' 0 7 ++ BitVec.ofBool (s.flag .cy)) (a.getLsbD 7)).advance 1

/-- RAR: `{c, a[7:1]}` (rule R211). -/
def execRar (s : State) : Host.Outcome State Fault Refusal :=
  let a := s.getReg .a
  (s.rotateA (BitVec.ofBool (s.flag .cy) ++ a.extractLsb' 1 7) (a.getLsbD 0)).advance 1

/-- CMA (rule R212). -/
def execCma (s : State) : Host.Outcome State Fault Refusal :=
  (s.setReg .a (s.getReg .a ^^^ 0xFF)).advance 1

/-- STC (rule R213). -/
def execStc (s : State) : Host.Outcome State Fault Refusal :=
  (s.setF (setFlag s.f .cy true)).advance 1

/-- CMC (rule R214). -/
def execCmc (s : State) : Host.Outcome State Fault Refusal :=
  (s.setF (setFlag s.f .cy (!s.flag .cy))).advance 1

end Sys2Proof.Machine
end

