-- ==== Sys2Proof/Machine/Stack.lean ====
section
/-! DEFINITION. PUSH, POP and XTHL (spec 44_stack.md). None faults, and none but POP PSW writes a flag
(rule R267). -/

namespace Sys2Proof.Machine

/-- PUSH rp (rule R262). -/
def execPush (pair : StackPair) (s : State) : Host.Outcome State Fault Refusal :=
  (s.push16 (s.readStackPair pair)).advance 1

/-- PUSH PSW: `{A, F}` with F as stored, all eight bits (rule R263). -/
def execPushPsw (s : State) : Host.Outcome State Fault Refusal :=
  (s.push16 (wordOf (s.getReg .a) s.f)).advance 1

/-- POP rp (rule R264). -/
def execPop (pair : StackPair) (s : State) : Host.Outcome State Fault Refusal :=
  (s.popped.writeStackPair pair s.topOfStack).advance 1

/-- POP PSW: F is replaced whole (rule R265). -/
def execPopPsw (s : State) : Host.Outcome State Fault Refusal :=
  ((s.popped.setF (loByte s.topOfStack)).setReg .a (hiByte s.topOfStack)).advance 1

/-- XTHL: both reads precede both writes, SP is unchanged (rule R266). -/
def execXthl (s : State) : Host.Outcome State Fault Refusal :=
  (((s.writeMem s.sp (s.getReg .l)).writeMem (s.sp + 1) (s.getReg .h)).setPairOf .h .l
    s.topOfStack).advance 1

end Sys2Proof.Machine
end

