-- ==== Sys2Proof/Machine/Step.lean ====
section
/-! DEFINITION. The step driver (spec 45_io_control.md rules R293 to R296), and the placing of one
instruction where the next step fetches. -/

namespace Sys2Proof.Machine

/-- One step (rule R293): HALTED is tested first, before any fetch (rule R307), and a halted core keeps
its state (rule R295). Otherwise the instruction at PC is fetched, decoded and executed. That the step of
a halted core answers `next` is notes/assumptions/5.md. -/
def step (s : State) : Host.Outcome State Fault Refusal :=
  if s.halted then .next s else exec s.fetchInstr s

/-- `s` with the instruction whose bits are `w` stored at PC, as `load` would store it (rule R345), and
HALTED clear, since a halted core fetches nothing (notes/assumptions/6.md). -/
def State.withFetchWord (s : State) (nbits w : Nat) : State :=
  (s.load [tableByte nbits w 0, tableByte nbits w 1, tableByte nbits w 2] s.pc).setHalted false

end Sys2Proof.Machine
end

