-- ==== Sys2Proof/Machine/Environment.lean ====
section
/-! DEFINITION. What the environment sees of the core (spec 45_io_control.md rules R294, R297,
70_reset_and_hazards.md rules R346, R347). The operations that write state, `load` and `reset`, are
`State.load` and `State.resetOp` in Machine/Ops.lean. -/

namespace Sys2Proof.Machine

/-- "next PC, a halted flag, and an optional error" (rule R294): an output of a step, not state. -/
structure StepResult where
  nextPc : Word
  halted : Bool
  error : Option Fault
  deriving DecidableEq, Repr

/-- The state after one call of `step()`: an error changes nothing (rules R296, R301), so the environment
can `load` or `reset` and call again (rule R309). -/
def afterStep (s : State) : State :=
  match step s with
  | .next t => t
  | .fault _ => s
  | .refused _ => s

/-- The error of one call of `step()` (rules R293, R296). -/
def stepError (s : State) : Option Fault :=
  match step s with
  | .next _ => none
  | .fault reason => some reason
  | .refused _ => none

/-- What one call of `step()` returns (rules R293 to R296): HALTED as it is after the step. -/
def stepResult (s : State) : StepResult :=
  { nextPc := (afterStep s).pc, halted := (afterStep s).halted, error := stepError s }

/-- "read a memory range" (rule R347): `count` bytes from `origin` upward, modulo 65536. -/
def readRange (s : State) (origin : Word) : Nat → List Byte
  | 0 => []
  | count + 1 => s.readMem origin :: readRange s (origin + 1) count

end Sys2Proof.Machine
end

