-- ==== Sys2Proof/Safety.lean ====
section
/-! DEFINITION. The terms the claims use: the ends of a run, the invariant, what an instruction leaves
unchanged, and the spec's tables and formulas written a second time, over numbers, so that a claim
compares the machine with the spec and not with itself. -/

namespace Sys2Proof.Safety

open Sys2Proof.Machine

/-! ## Runs -/

/-- The normal end of a run: the core is halted (spec 45_io_control.md rule R297). -/
def EndedNormally (s : State) : Prop := s.halted = true

/-- The faulting end of a run: this step answers `UnimplementedOpcode` (rule R297). -/
def EndsInError (s : State) : Prop := ∃ byte, step s = .fault (.unimplementedOpcode byte s.pc)

/-- The memory is in its canonical form: no cell outside the 65,536 exists (rule R50), none is listed
twice, and equal memories are equal data. -/
def Inv (s : State) : Prop := s.mem.wf

/-! ## What an instruction leaves unchanged -/

/-- The parts of a state, PC left out: each register, each flag, bits 5, 3 and 1 of F, SP, the two
latches, each memory cell, and the two records of the ports. -/
inductive Part where
  | reg (r : Reg)
  | flag (g : Flag)
  | unusedBits
  | sp
  | ie
  | halted
  | cell (address : Word)
  | inputs
  | outputs
  deriving DecidableEq, Repr

/-- The part holds the same in both states. -/
def Part.Same (s t : State) : Part → Prop
  | .reg r => t.getReg r = s.getReg r
  | .flag g => t.flag g = s.flag g
  | .unusedBits => t.f &&& 0x2A#8 = s.f &&& 0x2A#8
  | .sp => t.sp = s.sp
  | .ie => t.ie = s.ie
  | .halted => t.halted = s.halted
  | .cell address => t.readMem address = s.readMem address
  | .inputs => t.ioReads = s.ioReads
  | .outputs => t.ioWrites = s.ioWrites

/-- From `s` to `t` every part but those listed is unchanged. -/
def Frame (changed : List Part) (s t : State) : Prop := ∀ p, p ∉ changed → p.Same s t

/-- `exec i s` ANSWERS A NEXT STATE `t`; PC is then `pc`, every part but those in `changed` is as it was,
and `result t` holds. -/
def Completes (i : Instr) (s : State) (pc : Word) (changed : List Part) (result : State → Prop) :
    Prop :=
  ∃ t, exec i s = .next t ∧ t.pc = pc ∧ Frame changed s t ∧ result t

/-- The five flags. -/
def allFlags : List Part := [.flag .s, .flag .z, .flag .ac, .flag .p, .flag .cy]

/-- The flags INR and DCR write (spec 41_arithmetic_logic.md rule R155). -/
def flagsLessCy : List Part := [.flag .s, .flag .z, .flag .ac, .flag .p]

/-- What writing a pair changes (spec 10_state.md rule R24). -/
def pairParts : RegPair → List Part
  | .bc => [.reg .b, .reg .c]
  | .de => [.reg .d, .reg .e]
  | .hl => [.reg .h, .reg .l]
  | .sp => [.sp]

/-- The high and low register of a PUSH or POP pair (rule R24). -/
def stackPairRegs : StackPair → Reg × Reg
  | .bc => (.b, .c)
  | .de => (.d, .e)
  | .hl => (.h, .l)

/-- The high and low register of an LDAX or STAX pair. -/
def indexPairRegs : IndexPair → Reg × Reg
  | .bc => (.b, .c)
  | .de => (.d, .e)

/-! ## Words and operands over numbers -/

/-- `{hi, lo} = (hi << 8) | lo` (spec 00_scope.md rule R10). -/
def word16 (hi lo : Byte) : Word := BitVec.ofNat 16 (hi.toNat * 256 + lo.toNat)

/-- `HL` (rule R133). -/
def hlOf (s : State) : Word := word16 (s.getReg .h) (s.getReg .l)

/-- The value of a pair (rules R13, R24). -/
def pairValue (s : State) : RegPair → Word
  | .bc => word16 (s.getReg .b) (s.getReg .c)
  | .de => word16 (s.getReg .d) (s.getReg .e)
  | .hl => word16 (s.getReg .h) (s.getReg .l)
  | .sp => s.sp

/-- The value of a PUSH or POP pair. -/
def stackPairValue (s : State) (pair : StackPair) : Word :=
  word16 (s.getReg (stackPairRegs pair).1) (s.getReg (stackPairRegs pair).2)

/-- The address LDAX and STAX use. -/
def indexPairValue (s : State) (pair : IndexPair) : Word :=
  word16 (s.getReg (indexPairRegs pair).1) (s.getReg (indexPairRegs pair).2)

/-- The second operand `b` of the accumulator group (spec 41_arithmetic_logic.md rule R157). -/
def secondOperand (s : State) : Operand → Byte
  | .reg r => s.getReg r
  | .m => s.readMem (hlOf s)

/-- The word a pop returns (spec 44_stack.md rule R261). -/
def poppedWord (s : State) : Word := word16 (s.readMem (s.sp + 1)) (s.readMem s.sp)

/-! ## Flags over numbers (spec 41_arithmetic_logic.md rules R151 to R154) -/

/-- How many of the eight bits of `v` are 1. -/
def onesIn (v : Nat) : Nat := ((List.range 8).filter (v.testBit ·)).length

/-- S, Z and P from the result `res` (rule R151). -/
def SignZeroParity (t : State) (res : Nat) : Prop :=
  t.flag .s = decide (128 ≤ res) ∧ t.flag .z = decide (res = 0) ∧
    t.flag .p = decide (onesIn res % 2 = 0)

/-- A and the flags after the add kind (rules R151, R152). -/
def AddedToA (s : State) (b : Byte) (c : Nat) (t : State) : Prop :=
  let a := (s.getReg .a).toNat
  let sum := a + b.toNat + c
  (t.getReg .a).toNat = sum % 256 ∧ SignZeroParity t (sum % 256) ∧
    t.flag .cy = decide (255 < sum) ∧ t.flag .ac = decide (15 < a % 16 + b.toNat % 16 + c)

/-- The flags after the subtract kind (rules R151, R153); the difference is taken in the integers. -/
def BorrowFlags (s : State) (b : Byte) (c : Nat) (t : State) : Prop :=
  let a := (s.getReg .a).toNat
  SignZeroParity t (((a : Int) - b.toNat - c) % 256).toNat ∧
    t.flag .cy = decide (a < b.toNat + c) ∧ t.flag .ac = decide (a % 16 < b.toNat % 16 + c)

/-- A and the flags after the subtract kind (rules R151, R153). -/
def SubtractedFromA (s : State) (b : Byte) (c : Nat) (t : State) : Prop :=
  ((t.getReg .a).toNat : Int) = ((s.getReg .a).toNat - (b.toNat : Int) - c) % 256 ∧
    BorrowFlags s b c t

/-- A and the flags after the logical kind (rules R151, R154). -/
def LogicResult (res : Byte) (t : State) : Prop :=
  t.getReg .a = res ∧ SignZeroParity t res.toNat ∧ t.flag .ac = false ∧ t.flag .cy = false

/-! ## Conditions (spec 43_branch_control.md rule R231) -/

/-- The flag a condition tests and the value that makes it true. -/
def conditionTest : Cond → Flag × Bool
  | .nz => (.z, false)
  | .z => (.z, true)
  | .nc => (.cy, false)
  | .c => (.cy, true)
  | .po => (.p, false)
  | .pe => (.p, true)
  | .p => (.s, false)
  | .m => (.s, true)

/-- The condition is true in `s`. -/
def Holds (s : State) (cond : Cond) : Prop := s.flag (conditionTest cond).1 = (conditionTest cond).2

/-- The conditional jumps (rule R234). -/
def conditionalJumps : List ((Word → Instr) × Cond) :=
  [(.jnz, .nz), (.jz, .z), (.jnc, .nc), (.jc, .c), (.jpo, .po), (.jpe, .pe), (.jp, .p), (.jm, .m)]

/-- The conditional calls (rule R236). -/
def conditionalCalls : List ((Word → Instr) × Cond) :=
  [(.cnz, .nz), (.cz, .z), (.cnc, .nc), (.cc, .c), (.cpo, .po), (.cpe, .pe), (.cp, .p), (.cm, .m)]

/-- The conditional returns (rule R238). -/
def conditionalReturns : List (Instr × Cond) :=
  [(.rnz, .nz), (.rz, .z), (.rnc, .nc), (.rc, .c), (.rpo, .po), (.rpe, .pe), (.rp, .p), (.rm, .m)]

/-- The condition of a conditional instruction (rules R234, R236, R238). -/
def conditionOf : Instr → Option Cond
  | .jnz _ | .cnz _ | .rnz => some .nz
  | .jz _ | .cz _ | .rz => some .z
  | .jnc _ | .cnc _ | .rnc => some .nc
  | .jc _ | .cc _ | .rc => some .c
  | .jpo _ | .cpo _ | .rpo => some .po
  | .jpe _ | .cpe _ | .rpe => some .pe
  | .jp _ | .cp _ | .rp => some .p
  | .jm _ | .cm _ | .rm => some .m
  | .movRR _ _ | .movRM _ | .movMR _ | .mviR _ _ | .mviM _ | .lxi _ _ | .lda _ | .sta _
  | .ldax _ | .stax _ | .lhld _ | .shld _ | .xchg
  | .add _ | .adc _ | .sub _ | .sbb _ | .ana _ | .xra _ | .ora _ | .cmp _
  | .adi _ | .aci _ | .sui _ | .sbi _ | .ani _ | .xri _ | .ori _ | .cpi _
  | .inrR _ | .inrM | .dcrR _ | .dcrM | .inx _ | .dcx _ | .dad _ | .daa
  | .rlc | .rrc | .ral | .rar | .cma | .stc | .cmc
  | .jmp _ | .call _ | .ret | .rst _ | .pchl | .sphl
  | .push _ | .pushPsw | .pop _ | .popPsw | .xthl
  | .inPort _ | .outPort _ | .ei | .di | .rim | .sim | .hlt | .unimplemented _ => none

/-- The jump, call or return is taken: it has no condition or its condition is true. -/
def taken (i : Instr) (s : State) : Bool :=
  match conditionOf i with
  | none => true
  | some cond => s.flag (conditionTest cond).1 == (conditionTest cond).2

/-! ## The whole machine's tables -/

/-- New PC (spec 10_state.md rule R26). -/
def nextPc (i : Instr) (s : State) : Word :=
  let sequential := s.pc + BitVec.ofNat 16 (encode i).length
  match i with
  | .jmp a | .jnz a | .jz a | .jnc a | .jc a | .jpo a | .jpe a | .jp a | .jm a
  | .call a | .cnz a | .cz a | .cnc a | .cc a | .cpo a | .cpe a | .cp a | .cm a =>
    if taken i s then a else sequential
  | .ret | .rnz | .rz | .rnc | .rc | .rpo | .rpe | .rp | .rm =>
    if taken i s then poppedWord s else sequential
  | .rst n => BitVec.ofNat 16 (8 * n.toNat)
  | .pchl => hlOf s
  | .movRR _ _ | .movRM _ | .movMR _ | .mviR _ _ | .mviM _ | .lxi _ _ | .lda _ | .sta _
  | .ldax _ | .stax _ | .lhld _ | .shld _ | .xchg
  | .add _ | .adc _ | .sub _ | .sbb _ | .ana _ | .xra _ | .ora _ | .cmp _
  | .adi _ | .aci _ | .sui _ | .sbi _ | .ani _ | .xri _ | .ori _ | .cpi _
  | .inrR _ | .inrM | .dcrR _ | .dcrM | .inx _ | .dcx _ | .dad _ | .daa
  | .rlc | .rrc | .ral | .rar | .cma | .stc | .cmc
  | .sphl
  | .push _ | .pushPsw | .pop _ | .popPsw | .xthl
  | .inPort _ | .outPort _ | .ei | .di | .rim | .sim | .hlt | .unimplemented _ => sequential

/-- What an instruction may write, PC apart: registers by rule R23, flags by rule R31, SP by rule R28,
memory cells by rule R58, IE and HALTED by rules R35 and R36, ports by rule R56. -/
def writes (i : Instr) (s : State) : List Part :=
  match i with
  | .movRR dst _ | .movRM dst | .mviR dst _ => [.reg dst]
  | .movMR _ | .mviM _ => [.cell (hlOf s)]
  | .lxi pair _ | .inx pair | .dcx pair => pairParts pair
  | .lda _ | .ldax _ => [.reg .a]
  | .sta addr => [.cell addr]
  | .stax pair => [.cell (indexPairValue s pair)]
  | .lhld _ => [.reg .h, .reg .l]
  | .shld addr => [.cell addr, .cell (addr + 1)]
  | .xchg => [.reg .d, .reg .e, .reg .h, .reg .l]
  | .add _ | .adc _ | .sub _ | .sbb _ | .ana _ | .xra _ | .ora _ => .reg .a :: allFlags
  | .adi _ | .aci _ | .sui _ | .sbi _ | .ani _ | .xri _ | .ori _ | .daa => .reg .a :: allFlags
  | .cmp _ | .cpi _ => allFlags
  | .inrR dst | .dcrR dst => .reg dst :: flagsLessCy
  | .inrM | .dcrM => .cell (hlOf s) :: flagsLessCy
  | .dad _ => [.reg .h, .reg .l, .flag .cy]
  | .rlc | .rrc | .ral | .rar => [.reg .a, .flag .cy]
  | .cma => [.reg .a]
  | .stc | .cmc => [.flag .cy]
  | .call _ | .cnz _ | .cz _ | .cnc _ | .cc _ | .cpo _ | .cpe _ | .cp _ | .cm _ =>
    if taken i s then [.sp, .cell (s.sp - 1), .cell (s.sp - 2)] else []
  | .ret | .rnz | .rz | .rnc | .rc | .rpo | .rpe | .rp | .rm => if taken i s then [.sp] else []
  | .rst _ | .push _ | .pushPsw => [.sp, .cell (s.sp - 1), .cell (s.sp - 2)]
  | .sphl => [.sp]
  | .pop pair => [.sp, .reg (stackPairRegs pair).1, .reg (stackPairRegs pair).2]
  | .popPsw => .sp :: .reg .a :: .unusedBits :: allFlags
  | .xthl => [.reg .h, .reg .l, .cell s.sp, .cell (s.sp + 1)]
  | .inPort _ => [.reg .a, .inputs]
  | .outPort _ => [.outputs]
  | .ei | .di => [.ie]
  | .hlt => [.halted]
  | .jmp _ | .jnz _ | .jz _ | .jnc _ | .jc _ | .jpo _ | .jpe _ | .jp _ | .jm _ | .pchl => []
  | .rim | .sim | .unimplemented _ => []

/-! ## Packed decimal -/

/-- The packed decimal byte of a number below 100. -/
def bcd (n : Nat) : Byte := BitVec.ofNat 8 (n / 10 * 16 + n % 10)

end Sys2Proof.Safety
end

