-- ==== Sys2Proof/Certificates/Slice0/Obligations.lean ====
section
/-! DEFINITION. The statements for the provers. Each docstring names the rule or section of spec/ it
formalises; where the spec marks the point as a decision of its own (D1 to D28) or as general knowledge,
the docstring says so and the statement is 'derived' (notes/assumptions/9.md). -/

open Sys2Proof Sys2Proof.Machine Sys2Proof.Safety

/-! ## Encoding -/

/-- Decoding the bytes of any well-formed instruction gives it back with every operand, and leaves the
bytes after it (30_encoding.md sections 1 to 5; byte values of quadrant `11` by D27, codes by D2). -/
def Obligations.DecodeOfEncodeIsTheInstruction : Prop :=
  ∀ (i : Instr) (rest : List Byte), i.wellFormed = true →
    decodeStream (encode i ++ rest) = .ok (i, rest)

/-- Any three bytes decode to a well-formed instruction whose own bytes are the first bytes of the three,
as many as the opcode's length (30_encoding.md sections 1 and 4: every byte has one meaning and no bit is
dropped; D2, D21, D27). -/
def Obligations.EncodeOfDecodeIsTheBytes : Prop :=
  ∀ op b2 b3 : Byte, (decode op b2 b3).wellFormed = true ∧
    encode (decode op b2 b3) = [op, b2, b3].take (opcodeLength op)

/-- The decoder by quadrants is the decode order of the source, "most specific mask first", with the bytes
of quadrant `11` enumerated (30_encoding.md sections 3 and 4; D27). -/
def Obligations.DecoderFollowsTheCanonicalOrder : Prop :=
  ∀ op b2 b3 : Byte, decode op b2 b3 = decodeInOrder op b2 b3

/-- A byte decodes to `Unimplemented` exactly when it is one of the eleven, and the variant carries that
byte (30_encoding.md section 5; 0x00 by D1, the last five by D27). -/
def Obligations.UnimplementedBytesAreTheEleven : Prop :=
  ∀ op b2 b3 byte : Byte, decode op b2 b3 = .unimplemented byte ↔ byte = op ∧
    op ∈ [0x00#8, 0x08, 0x10, 0x18, 0x28, 0x38, 0xCB, 0xD9, 0xDD, 0xED, 0xFD]

/-- One opcode of every family, written bit by bit from 30_encoding.md's patterns: MOV A,B; MVI M; LXI HL
(low byte first, D3); LDAX DE; SBB M; ANI; INR C; DAD SP; JZ; RST 5; POP DE; OUT; HLT. -/
def Obligations.WordsOfEveryFamilyDecode : Prop :=
  ∀ b2 b3 : Byte,
    decode 0b01111000 b2 b3 = .movRR .a .b ∧ decode 0b00110110 b2 b3 = .mviM b2 ∧
    decode 0b00100001 b2 b3 = .lxi .hl (b3 ++ b2) ∧ decode 0b00011010 b2 b3 = .ldax .de ∧
    decode 0b10011110 b2 b3 = .sbb .m ∧ decode 0b11100110 b2 b3 = .ani b2 ∧
    decode 0b00001100 b2 b3 = .inrR .c ∧ decode 0b00111001 b2 b3 = .dad .sp ∧
    decode 0b11001010 b2 b3 = .jz (b3 ++ b2) ∧ decode 0b11101111 b2 b3 = .rst 5 ∧
    decode 0b11010001 b2 b3 = .pop .de ∧ decode 0b11010011 b2 b3 = .outPort b2 ∧
    decode 0b01110110 b2 b3 = .hlt

/-! ## The step driver -/

/-- A core that is not halted, with the bytes of a well-formed instruction at PC (modulo 65536), runs that
instruction (45_io_control.md section "The step driver"; the order of the checks is D25). -/
def Obligations.StepRunsTheInstructionAtPc : Prop :=
  ∀ (i : Instr) (s : State), i.wellFormed = true → s.halted = false →
    (∀ (k : Nat) (inside : k < (encode i).length),
      s.readMem (s.pc + BitVec.ofNat 16 k) = (encode i)[k]) →
    step s = exec i s

/-- Rule R295: any number of steps of a halted core leave every register, flag, latch, memory cell and port
record as it is, and each reports the PC, `halted` and no error. -/
def Obligations.HaltedStepsChangeNothing : Prop :=
  ∀ (s : State) (n : Nat), s.halted = true →
    afterStep^[n] s = s ∧
      stepResult (afterStep^[n] s) = { nextPc := s.pc, halted := true, error := none }

/-- A step of a core that is not halted reports `UnimplementedOpcode`, with the byte and the PC, exactly when
the byte at PC decodes to `Unimplemented`; the state does not change and `halted` is false in the result.
It depends on the opcode byte alone (60_exceptions.md section 1; not latched by D13, the bytes by D1, D27). -/
def Obligations.UnimplementedOpcodeError : Prop :=
  ∀ (s : State), s.halted = false →
    (∀ (byte : Byte) (pc : Word), step s = .fault (.unimplementedOpcode byte pc) ↔
      decode (s.readMem s.pc) 0 0 = .unimplemented byte ∧ pc = s.pc) ∧
    (∀ byte : Byte, decode (s.readMem s.pc) 0 0 = .unimplemented byte →
      byte = s.readMem s.pc ∧ afterStep s = s ∧
      stepResult s =
        { nextPc := s.pc, halted := false, error := some (.unimplementedOpcode byte s.pc) })

/-- An instruction other than the eleven undefined bytes always completes, from every state, and a step that
does not complete is the one error: there is no other (60_exceptions.md section 1; the bytes by D1, D27). -/
def Obligations.EveryDefinedInstructionCompletes : Prop :=
  (∀ (i : Instr) (s : State), (∃ t, exec i s = .next t) ∨ ∃ byte, i = .unimplemented byte) ∧
    ∀ s : State, (∃ t, step s = .next t) ∨
      s.halted = false ∧ s.readMem s.pc ∈ unimplementedBytes ∧
        step s = .fault (.unimplementedOpcode (s.readMem s.pc) s.pc)

/-- Rule R294: `next_pc` is the PC register after the step, at most one of `halted = true` and an error is
reported, and an error is `UnimplementedOpcode` with the byte at PC. -/
def Obligations.StepResultReportsTheStep : Prop :=
  ∀ s : State, (stepResult s).nextPc = (afterStep s).pc ∧
    ((stepResult s).halted = true → (stepResult s).error = none) ∧
    ∀ reason, (stepResult s).error = some reason →
      reason = .unimplementedOpcode (s.readMem s.pc) s.pc

/-- HALTED is set by HLT, byte 0x76, and by nothing else, and a step never clears it (10_state.md section
5 and 45_io_control.md section HLT; the latch is D8). -/
def Obligations.OnlyHltHalts : Prop :=
  ∀ s t : State, step s = .next t →
    (t.halted = true ↔ s.halted = true ∨ s.readMem s.pc = 0x76)

/-- A store is seen by the next fetch of that cell: after STA to the address of the next instruction, the
next step decodes the byte stored (20_memory.md section 6, fetch coherence; D16, D20). -/
def Obligations.StoreIsSeenByTheNextFetch : Prop :=
  ∀ s : State, ∃ t, exec (.sta (s.pc + 3)) s = .next t ∧ t.pc = s.pc + 3 ∧
    t.fetchInstr = decode (s.getReg .a) (t.readMem (s.pc + 4)) (t.readMem (s.pc + 5)) ∧
    (s.halted = false → step t = exec t.fetchInstr t)

/-! ## The whole machine -/

/-- What any instruction leaves unchanged: every register, flag, unused bit of F, SP, latch, memory cell and
port record that the spec's tables do not give it to write (10_state.md sections 1, 3, 4, 5, 20_memory.md
section 4; rows marked there as decisions D5, D7, D8, D9, D20). -/
def Obligations.FrameOfEveryInstruction : Prop :=
  ∀ (i : Instr) (s t : State), exec i s = .next t → Frame (writes i s) s t

/-- The new PC of any instruction is the PC table's, with the length its encoding has (10_state.md section
2; HLT by D8, the untaken conditionals by D14, lengths by D21). -/
def Obligations.NextPcOfEveryInstruction : Prop :=
  ∀ (i : Instr) (s t : State), exec i s = .next t → t.pc = nextPc i s

/-- Every step keeps the invariant, from every state that has it: the memory stays a canonical list of
cells of the 65,536-cell space (20_memory.md section 1; the form is the model's). -/
def Obligations.StepKeepsMemoryCanonical : Prop :=
  ∀ s t : State, Safety.Inv s → step s = .next t → Safety.Inv t

/-- The invariant holds at creation, whatever `SP_RESET` and `MEM_INIT` are, and `load` and `reset` keep it
(70_reset_and_hazards.md sections 1 and 2; the form is the model's). -/
def Obligations.EnvironmentKeepsMemoryCanonical : Prop :=
  (∀ (spReset : Word) (memInit : Word → Byte), Safety.Inv (State.create spReset memInit)) ∧
    Safety.Inv State.reset ∧
    (∀ (s : State) (spReset : Word), Safety.Inv s → Safety.Inv (s.resetOp spReset)) ∧
    ∀ (s : State) (bytes : List Byte) (origin : Word),
      Safety.Inv s → Safety.Inv (s.load bytes origin)

/-- No instruction reads IE: two cores that differ in IE alone make the same step, less IE (10_state.md
section 5; the latch and its writers are D9). -/
def Obligations.InterruptEnableIsNeverRead : Prop :=
  ∀ (s : State) (ie : Bool),
    match step s, step (s.setIe ie) with
    | .next t, .next u => u.setIe t.ie = t
    | .fault x, .fault y => x = y
    | _, _ => False

/-- Bits 5, 3 and 1 of F are never interpreted: two cores whose F differ there alone make the same step but
for those bits, unless the instruction is PUSH PSW, which stores them (10_state.md section 4; D5). -/
def Obligations.UnusedFlagBitsAreNeverInterpreted : Prop :=
  ∀ (s : State) (f : Byte), f &&& 0xD5#8 = s.f &&& 0xD5#8 →
    s.halted = true ∨ s.readMem s.pc ≠ 0xF5 →
    match step s, step (s.setF f) with
    | .next t, .next u => u.setF 0 = t.setF 0 ∧ u.f &&& 0xD5#8 = t.f &&& 0xD5#8
    | .fault x, .fault y => x = y
    | _, _ => False

/-- No state of the core depends on what OUT has sent: the events recorded before a step only stand in
front of those it adds (45_io_control.md section "IN, OUT"; D11, notes/assumptions/4.md). -/
def Obligations.RecordedOutputsAreNeverRead : Prop :=
  ∀ (s : State) (earlier : List IoWrite),
    match step s, step { s with ioWrites := earlier ++ s.ioWrites } with
    | .next t, .next u => u = { t with ioWrites := earlier ++ t.ioWrites }
    | .fault x, .fault y => x = y
    | _, _ => False

/-! ## Reset, creation, load, memory -/

/-- `reset()` zeroes the registers, F and PC, sets SP to `SP_RESET`, clears IE and HALTED and leaves every
memory cell; creation is the same with `MEM_INIT(address)` in each cell, for every `SP_RESET` and
`MEM_INIT` (70_reset_and_hazards.md section 1; IE, HALTED and memory are D8, D9, D28). The model's reset
state is creation with its own parameters (`Config.spReset`, notes/assumptions/1.md, and `Config.memInit`,
notes/assumptions/2.md). -/
def Obligations.ResetAndCreation : Prop :=
  (∀ (s : State) (spReset : Word), ∃ t, t = s.resetOp spReset ∧
    (∀ r, t.getReg r = 0) ∧ t.f = 0 ∧ t.pc = 0 ∧ t.sp = spReset ∧ t.ie = false ∧
    t.halted = false ∧ ∀ a, t.readMem a = s.readMem a) ∧
  (∀ (spReset : Word) (memInit : Word → Byte), ∃ t, t = State.create spReset memInit ∧
    (∀ r, t.getReg r = 0) ∧ t.f = 0 ∧ t.pc = 0 ∧ t.sp = spReset ∧ t.ie = false ∧
    t.halted = false ∧ ∀ a, t.readMem a = memInit a) ∧
  State.reset = State.create Config.spReset fun a => Config.memInit a.toNat

/-- `load`: cell `(origin + i) mod 65536` holds byte `i` unless a later byte of the same sequence lands on
it, every other cell is unchanged, and so is everything else (70_reset_and_hazards.md section 2; the wrap
and the over-long sequence are D17). -/
def Obligations.LoadPlacesTheBytes : Prop :=
  ∀ (s : State) (bytes : List Byte) (origin : Word),
    (∀ (k : Nat) (inside : k < bytes.length), bytes.length ≤ k + 65536 →
      (s.load bytes origin).readMem (origin + BitVec.ofNat 16 k) = bytes[k]) ∧
    (∀ a : Word, (∀ k, k < bytes.length → a ≠ origin + BitVec.ofNat 16 k) →
      (s.load bytes origin).readMem a = s.readMem a) ∧
    s.load bytes origin = { s with mem := (s.load bytes origin).mem }

/-- The order of `reset()` and `load()` does not matter (70_reset_and_hazards.md section 3; D24, D28). -/
def Obligations.ResetAndLoadCommute : Prop :=
  ∀ (s : State) (bytes : List Byte) (origin spReset : Word),
    (s.load bytes origin).resetOp spReset = (s.resetOp spReset).load bytes origin

/-- Two canonical memories that read the same at every address are the same data (20_memory.md section 1;
the form is the model's). -/
def Obligations.EqualReadsMeanEqualMemories : Prop :=
  ∀ m n : Memory, m.wf → n.wf →
    (∀ address < 65536, Memory.read m address = Memory.read n address) → m = n

/-- A word that SHLD stores reads back byte by byte with LDA, bits 7:0 at the lower address, also across
the wrap from 0xFFFF to 0x0000 (20_memory.md sections 2 and 3; D3, D20). -/
def Obligations.StoredWordReadsBackByBytes : Prop :=
  ∀ (addr : Word) (s : State), ∃ t lo hi, exec (.shld addr) s = .next t ∧
    exec (.lda addr) t = .next lo ∧ exec (.lda (addr + 1)) t = .next hi ∧
    lo.getReg .a = s.getReg .l ∧ hi.getReg .a = s.getReg .h

/-! ## Data transfer -/

/-- MOV r1,r2 (40_data_transfer.md section MOV; codes by D2). -/
def Obligations.MovRegisterToRegister : Prop :=
  ∀ (dst src : Reg) (s : State),
    Completes (.movRR dst src) s (s.pc + 1) [.reg dst] fun t => t.getReg dst = s.getReg src

/-- MOV r,M, LDA and LDAX load one register from the cell at the old HL, the operand address, or BC or DE
(40_data_transfer.md sections MOV, LDA, LDAX; D3, D20, D21). -/
def Obligations.LoadsFromMemory : Prop :=
  (∀ (dst : Reg) (s : State), Completes (.movRM dst) s (s.pc + 1) [.reg dst] fun t =>
    t.getReg dst = s.readMem (hlOf s)) ∧
  (∀ (addr : Word) (s : State), Completes (.lda addr) s (s.pc + 3) [.reg .a] fun t =>
    t.getReg .a = s.readMem addr) ∧
  ∀ (pair : IndexPair) (s : State), Completes (.ldax pair) s (s.pc + 1) [.reg .a] fun t =>
    t.getReg .a = s.readMem (indexPairValue s pair)

/-- MOV M,r, STA and STAX store one register to the cell at HL, the operand address, or BC or DE, and
change no other cell (40_data_transfer.md sections MOV, STA, STAX; D3, D20, D21). -/
def Obligations.StoresToMemory : Prop :=
  (∀ (src : Reg) (s : State), Completes (.movMR src) s (s.pc + 1) [.cell (hlOf s)] fun t =>
    t.readMem (hlOf s) = s.getReg src) ∧
  (∀ (addr : Word) (s : State), Completes (.sta addr) s (s.pc + 3) [.cell addr] fun t =>
    t.readMem addr = s.getReg .a) ∧
  ∀ (pair : IndexPair) (s : State),
    Completes (.stax pair) s (s.pc + 1) [.cell (indexPairValue s pair)] fun t =>
      t.readMem (indexPairValue s pair) = s.getReg .a

/-- Rule R124: MVI M,d8, byte 0x36 and the immediate, stores the immediate to the cell at HL and changes no
other; PC moves by 2. The immediate is fetched before the write: a step stores the byte that was at PC+1,
also when HL is PC or PC+1. -/
def Obligations.MviToMemory : Prop :=
  (∀ (imm : Byte) (s : State), encode (.mviM imm) = [0x36, imm] ∧
    Completes (.mviM imm) s (s.pc + 2) [.cell (hlOf s)] fun t => t.readMem (hlOf s) = imm) ∧
  ∀ s : State, s.halted = false → s.readMem s.pc = 0x36 →
    ∃ t, step s = .next t ∧ t.pc = s.pc + 2 ∧ t.readMem (hlOf s) = s.readMem (s.pc + 1)

/-- MVI r,d8 and LXI rp,d16 load the operand (40_data_transfer.md sections MVI, LXI; D2, D20, D21). -/
def Obligations.ImmediateLoads : Prop :=
  (∀ (dst : Reg) (imm : Byte) (s : State),
    Completes (.mviR dst imm) s (s.pc + 2) [.reg dst] fun t => t.getReg dst = imm) ∧
  ∀ (pair : RegPair) (imm16 : Word) (s : State),
    Completes (.lxi pair imm16) s (s.pc + 3) (pairParts pair) fun t => pairValue t pair = imm16

/-- LHLD and SHLD move L with the cell at the operand address and H with the next one, modulo 65536
(40_data_transfer.md section "LHLD, SHLD"; D3, D20, D21). -/
def Obligations.LhldAndShld : Prop :=
  (∀ (addr : Word) (s : State),
    Completes (.lhld addr) s (s.pc + 3) [.reg .h, .reg .l] fun t =>
      t.getReg .l = s.readMem addr ∧ t.getReg .h = s.readMem (addr + 1)) ∧
  ∀ (addr : Word) (s : State),
    Completes (.shld addr) s (s.pc + 3) [.cell addr, .cell (addr + 1)] fun t =>
      t.readMem addr = s.getReg .l ∧ t.readMem (addr + 1) = s.getReg .h

/-- XCHG exchanges HL with DE (40_data_transfer.md section XCHG; D20, D27). -/
def Obligations.XchgExchangesHlAndDe : Prop :=
  ∀ s : State, Completes .xchg s (s.pc + 1) [.reg .d, .reg .e, .reg .h, .reg .l] fun t =>
    t.getReg .h = s.getReg .d ∧ t.getReg .d = s.getReg .h ∧
    t.getReg .l = s.getReg .e ∧ t.getReg .e = s.getReg .l

/-! ## Arithmetic and logic -/

/-- Rules R160 and R161, on ADD and ADC (patterns `10000sss` and `10001sss`), and with them ADI and ACI: the
sum modulo 256, CY the carry out of bit 7 and AC the carry out of bit 3, both from the operands and the
carry in. S, Z and P are the result's, and A and the flags are all that changes beside PC. -/
def Obligations.AddKind : Prop :=
  (∀ (src : Operand) (s : State),
    encode (.add src) = [0b10000#5 ++ operandCode src] ∧
    encode (.adc src) = [0b10001#5 ++ operandCode src] ∧
    Completes (.add src) s (s.pc + 1) (.reg .a :: allFlags)
      (AddedToA s (secondOperand s src) 0) ∧
    Completes (.adc src) s (s.pc + 1) (.reg .a :: allFlags)
      (AddedToA s (secondOperand s src) (s.flag .cy).toNat)) ∧
  ∀ (imm : Byte) (s : State),
    Completes (.adi imm) s (s.pc + 2) (.reg .a :: allFlags) (AddedToA s imm 0) ∧
    Completes (.aci imm) s (s.pc + 2) (.reg .a :: allFlags) (AddedToA s imm (s.flag .cy).toNat)

/-- SUB, SBB (register and M), SUI and SBI: the difference modulo 256, CY and AC the borrows out of bit 7
and bit 3 (41_arithmetic_logic.md sections 1, 4, 5; the polarity of both is D6). -/
def Obligations.SubtractKind : Prop :=
  (∀ (src : Operand) (s : State),
    Completes (.sub src) s (s.pc + 1) (.reg .a :: allFlags)
      (SubtractedFromA s (secondOperand s src) 0) ∧
    Completes (.sbb src) s (s.pc + 1) (.reg .a :: allFlags)
      (SubtractedFromA s (secondOperand s src) (s.flag .cy).toNat)) ∧
  ∀ (imm : Byte) (s : State),
    Completes (.sui imm) s (s.pc + 2) (.reg .a :: allFlags) (SubtractedFromA s imm 0) ∧
    Completes (.sbi imm) s (s.pc + 2) (.reg .a :: allFlags)
      (SubtractedFromA s imm (s.flag .cy).toNat)

/-- Rules R154, R164, R165 and R166, on ANA, XRA and ORA (patterns `10100sss`, `10101sss` and `10110sss`), and
with them ANI, XRI and ORI: AC and CY are cleared, ANA and ANI included. A is the bitwise result, S, Z and
P are its, and nothing else changes beside PC. -/
def Obligations.LogicalKind : Prop :=
  (∀ (src : Operand) (s : State),
    encode (.ana src) = [0b10100#5 ++ operandCode src] ∧
    encode (.xra src) = [0b10101#5 ++ operandCode src] ∧
    encode (.ora src) = [0b10110#5 ++ operandCode src] ∧
    Completes (.ana src) s (s.pc + 1) (.reg .a :: allFlags)
      (LogicResult (s.getReg .a &&& secondOperand s src)) ∧
    Completes (.xra src) s (s.pc + 1) (.reg .a :: allFlags)
      (LogicResult (s.getReg .a ^^^ secondOperand s src)) ∧
    Completes (.ora src) s (s.pc + 1) (.reg .a :: allFlags)
      (LogicResult (s.getReg .a ||| secondOperand s src))) ∧
  ∀ (imm : Byte) (s : State),
    Completes (.ani imm) s (s.pc + 2) (.reg .a :: allFlags) (LogicResult (s.getReg .a &&& imm)) ∧
    Completes (.xri imm) s (s.pc + 2) (.reg .a :: allFlags) (LogicResult (s.getReg .a ^^^ imm)) ∧
    Completes (.ori imm) s (s.pc + 2) (.reg .a :: allFlags) (LogicResult (s.getReg .a ||| imm))

/-- CMP (register and M) and CPI write the flags that SUB would and not A; so Z says equal and CY says
smaller (41_arithmetic_logic.md sections 4, 5; D6). -/
def Obligations.CompareKind : Prop :=
  (∀ (src : Operand) (s : State), Completes (.cmp src) s (s.pc + 1) allFlags fun t =>
    BorrowFlags s (secondOperand s src) 0 t ∧
    (t.flag .z = true ↔ s.getReg .a = secondOperand s src) ∧
    (t.flag .cy = true ↔ s.getReg .a < secondOperand s src)) ∧
  ∀ (imm : Byte) (s : State), Completes (.cpi imm) s (s.pc + 2) allFlags fun t =>
    BorrowFlags s imm 0 t ∧ (t.flag .z = true ↔ s.getReg .a = imm) ∧
    (t.flag .cy = true ↔ s.getReg .a < imm)

/-! ## Increment, decrement, DAD, DAA, rotates, carry -/

/-- INR r and DCR r: the value plus or minus 1 modulo 256, S Z P its, AC the carry or borrow out of bit 3,
CY untouched (42_incdec_dad_daa_rotate.md section "INR, DCR"; codes by D2, DCR's AC by D6). -/
def Obligations.IncrementAndDecrementRegister : Prop :=
  ∀ (dst : Reg) (s : State),
    (Completes (.inrR dst) s (s.pc + 1) (.reg dst :: flagsLessCy) fun t =>
      (t.getReg dst).toNat = ((s.getReg dst).toNat + 1) % 256 ∧
      SignZeroParity t (t.getReg dst).toNat ∧
      t.flag .ac = decide ((s.getReg dst).toNat % 16 = 15)) ∧
    Completes (.dcrR dst) s (s.pc + 1) (.reg dst :: flagsLessCy) fun t =>
      (t.getReg dst).toNat = ((s.getReg dst).toNat + 255) % 256 ∧
      SignZeroParity t (t.getReg dst).toNat ∧
      t.flag .ac = decide ((s.getReg dst).toNat % 16 = 0)

/-- Rule R201: INR M, byte 0x34, increments the cell at HL modulo 256; S Z P are the result's, AC the carry
out of bit 3, CY unchanged; no other cell and no register changes. -/
def Obligations.IncrementMemory : Prop :=
  ∀ s : State, encode .inrM = [0x34] ∧
    Completes .inrM s (s.pc + 1) (.cell (hlOf s) :: flagsLessCy) fun t =>
      (t.readMem (hlOf s)).toNat = ((s.readMem (hlOf s)).toNat + 1) % 256 ∧
      SignZeroParity t (t.readMem (hlOf s)).toNat ∧
      t.flag .ac = decide ((s.readMem (hlOf s)).toNat % 16 = 15)

/-- DCR M decrements the cell at HL modulo 256 (42_incdec_dad_daa_rotate.md section "INR, DCR"; AC by D6). -/
def Obligations.DecrementMemory : Prop :=
  ∀ s : State, Completes .dcrM s (s.pc + 1) (.cell (hlOf s) :: flagsLessCy) fun t =>
    (t.readMem (hlOf s)).toNat = ((s.readMem (hlOf s)).toNat + 255) % 256 ∧
    SignZeroParity t (t.readMem (hlOf s)).toNat ∧
    t.flag .ac = decide ((s.readMem (hlOf s)).toNat % 16 = 0)

/-- INX and DCX: the pair plus or minus 1 modulo 65536, no flag (42_incdec_dad_daa_rotate.md section "INX,
DCX"; D20). -/
def Obligations.IncrementAndDecrementPair : Prop :=
  ∀ (pair : RegPair) (s : State),
    (Completes (.inx pair) s (s.pc + 1) (pairParts pair) fun t =>
      (pairValue t pair).toNat = ((pairValue s pair).toNat + 1) % 65536) ∧
    Completes (.dcx pair) s (s.pc + 1) (pairParts pair) fun t =>
      (pairValue t pair).toNat = ((pairValue s pair).toNat + 65535) % 65536

/-- DAD: HL plus the pair modulo 65536, and of the flags only CY, from 16-bit overflow
(42_incdec_dad_daa_rotate.md section DAD; pair codes by D2). -/
def Obligations.DoubleAdd : Prop :=
  ∀ (pair : RegPair) (s : State),
    Completes (.dad pair) s (s.pc + 1) [.reg .h, .reg .l, .flag .cy] fun t =>
      (hlOf t).toNat = ((hlOf s).toNat + (pairValue s pair).toNat) % 65536 ∧
      t.flag .cy = decide (65535 < (hlOf s).toNat + (pairValue s pair).toNat)

/-- DAA: the adjustment from the old A, AC and CY; CY is the old CY or the carry out of bit 7
(42_incdec_dad_daa_rotate.md section DAA; the algorithm is D7). -/
def Obligations.DecimalAdjust : Prop :=
  ∀ s : State, Completes .daa s (s.pc + 1) (.reg .a :: allFlags) fun t =>
    let a := (s.getReg .a).toNat
    let low := s.flag .ac = true ∨ 9 < a % 16
    let high := s.flag .cy = true ∨ 9 < a / 16 ∨ (9 ≤ a / 16 ∧ 9 < a % 16)
    ∃ adj, (low ∧ high → adj = 0x66) ∧ (low ∧ ¬high → adj = 0x06) ∧
      (¬low ∧ high → adj = 0x60) ∧ (¬low ∧ ¬high → adj = 0) ∧
      (t.getReg .a).toNat = (a + adj) % 256 ∧ SignZeroParity t ((a + adj) % 256) ∧
      t.flag .ac = decide (15 < a % 16 + adj % 16) ∧ (t.flag .cy = true ↔ high) ∧
      t.flag .cy = (s.flag .cy || decide (255 < a + adj))

/-- Packed-decimal addition: ADC (or ADD) of two decimal bytes and then DAA leave the decimal sum of the
two numbers, and CY is the decimal carry (41_arithmetic_logic.md section 4, 42_incdec_dad_daa_rotate.md
section DAA; D7). -/
def Obligations.DecimalAdditionIsExact : Prop :=
  ∀ (x y : Nat) (src : Operand) (s : State), x < 100 → y < 100 →
    s.getReg .a = bcd x → secondOperand s src = bcd y →
    (∃ t u, exec (.adc src) s = .next t ∧ exec .daa t = .next u ∧
      u.getReg .a = bcd ((x + y + (s.flag .cy).toNat) % 100) ∧
      u.flag .cy = decide (100 ≤ x + y + (s.flag .cy).toNat)) ∧
    ∃ t u, exec (.add src) s = .next t ∧ exec .daa t = .next u ∧
      u.getReg .a = bcd ((x + y) % 100) ∧ u.flag .cy = decide (100 ≤ x + y)

/-- The four rotates move A by one position and write CY alone; RAL and RAR pass through the old CY
(42_incdec_dad_daa_rotate.md section Rotates; D20). -/
def Obligations.Rotates : Prop :=
  ∀ s : State,
    (Completes .rlc s (s.pc + 1) [.reg .a, .flag .cy] fun t =>
      (t.getReg .a).toNat = (s.getReg .a).toNat * 2 % 256 + (s.getReg .a).toNat / 128 ∧
      t.flag .cy = decide (128 ≤ (s.getReg .a).toNat)) ∧
    (Completes .rrc s (s.pc + 1) [.reg .a, .flag .cy] fun t =>
      (t.getReg .a).toNat = (s.getReg .a).toNat / 2 + (s.getReg .a).toNat % 2 * 128 ∧
      t.flag .cy = decide ((s.getReg .a).toNat % 2 = 1)) ∧
    (Completes .ral s (s.pc + 1) [.reg .a, .flag .cy] fun t =>
      (t.getReg .a).toNat = (s.getReg .a).toNat * 2 % 256 + (s.flag .cy).toNat ∧
      t.flag .cy = decide (128 ≤ (s.getReg .a).toNat)) ∧
    Completes .rar s (s.pc + 1) [.reg .a, .flag .cy] fun t =>
      (t.getReg .a).toNat = (s.getReg .a).toNat / 2 + (s.flag .cy).toNat * 128 ∧
      t.flag .cy = decide ((s.getReg .a).toNat % 2 = 1)

/-- RAR undoes RAL and RRC undoes RLC: A returns, and for the rotation through carry so does CY
(42_incdec_dad_daa_rotate.md section Rotates; D20). -/
def Obligations.RotatesAreInverse : Prop :=
  ∀ s : State,
    (∃ t u, exec .ral s = .next t ∧ exec .rar t = .next u ∧ u.pc = s.pc + 2 ∧ Frame [] s u) ∧
    ∃ t u, exec .rlc s = .next t ∧ exec .rrc t = .next u ∧ u.pc = s.pc + 2 ∧
      Frame [.flag .cy] s u

/-- CMA complements A and writes no flag, STC sets CY, CMC inverts it (42_incdec_dad_daa_rotate.md section
"CMA, STC, CMC"; D20). -/
def Obligations.ComplementAndCarry : Prop :=
  ∀ s : State,
    (Completes .cma s (s.pc + 1) [.reg .a] fun t =>
      (t.getReg .a).toNat + (s.getReg .a).toNat = 255) ∧
    (Completes .stc s (s.pc + 1) [.flag .cy] fun t => t.flag .cy = true) ∧
    Completes .cmc s (s.pc + 1) [.flag .cy] fun t => t.flag .cy = !s.flag .cy

/-! ## Branch and control transfer -/

/-- JMP goes to its operand, PCHL to HL, and SPHL copies HL to SP; nothing else changes
(43_branch_control.md sections Jumps, "PCHL, SPHL"; bytes and lengths by D21, D27). -/
def Obligations.JumpAndHlTransfers : Prop :=
  (∀ (addr : Word) (s : State), Completes (.jmp addr) s addr [] fun _ => True) ∧
  (∀ s : State, Completes .pchl s (hlOf s) [] fun _ => True) ∧
  ∀ s : State, Completes .sphl s (s.pc + 1) [.sp] fun t => t.sp = hlOf s

/-- Each conditional jump goes to its operand when its condition is true and past its three bytes when not;
nothing else changes (43_branch_control.md sections "Common rules", Jumps; polarities by D2, the untaken
case by D14). -/
def Obligations.ConditionalJumps : Prop :=
  ∀ row ∈ conditionalJumps, ∀ (addr : Word) (s : State),
    (Holds s row.2 → Completes (row.1 addr) s addr [] fun _ => True) ∧
    (¬Holds s row.2 → Completes (row.1 addr) s (s.pc + 3) [] fun _ => True)

/-- CALL, and each conditional call when its condition is true, pushes the address of the next instruction,
high byte at SP-1 and low byte at SP-2, subtracts 2 from SP and goes to its operand; an untaken call does
nothing but pass its three bytes (43_branch_control.md sections "Common rules", Calls; D2, D14, D21). -/
def Obligations.Calls : Prop :=
  (∀ (addr : Word) (s : State),
    Completes (.call addr) s addr [.sp, .cell (s.sp - 1), .cell (s.sp - 2)] fun t =>
      t.sp = s.sp - 2 ∧ poppedWord t = s.pc + 3 ∧
      (t.readMem (s.sp - 1)).toNat = (s.pc + 3).toNat / 256 ∧
      (t.readMem (s.sp - 2)).toNat = (s.pc + 3).toNat % 256) ∧
  ∀ row ∈ conditionalCalls, ∀ (addr : Word) (s : State),
    (Holds s row.2 → exec (row.1 addr) s = exec (.call addr) s ∧
      Completes (row.1 addr) s addr [.sp, .cell (s.sp - 1), .cell (s.sp - 2)] fun t =>
        t.sp = s.sp - 2 ∧ poppedWord t = s.pc + 3) ∧
    (¬Holds s row.2 → Completes (row.1 addr) s (s.pc + 3) [] fun _ => True)

/-- RET, and each conditional return when its condition is true, goes to the word popped and adds 2 to SP;
an untaken return does nothing but pass its byte (43_branch_control.md sections "Common rules", Returns;
D2, D14, D21). -/
def Obligations.Returns : Prop :=
  (∀ s : State, Completes .ret s (poppedWord s) [.sp] fun t => t.sp = s.sp + 2) ∧
  ∀ row ∈ conditionalReturns, ∀ s : State,
    (Holds s row.2 → Completes row.1 s (poppedWord s) [.sp] fun t => t.sp = s.sp + 2) ∧
    (¬Holds s row.2 → Completes row.1 s (s.pc + 1) [] fun _ => True)

/-- A CALL and then a RET: PC ends at the instruction after the CALL and SP has its value from before it;
only the two stack cells have changed (43_branch_control.md sections Calls, Returns; D21). -/
def Obligations.CallThenReturn : Prop :=
  ∀ (addr : Word) (s : State), ∃ t u, exec (.call addr) s = .next t ∧ t.pc = addr ∧
    exec .ret t = .next u ∧ u.pc = s.pc + 3 ∧
    Frame [.cell (s.sp - 1), .cell (s.sp - 2)] s u

/-- RST n pushes PC+1 and goes to 8n, for n from 0 to 7 (43_branch_control.md section Restart; D21, D27). -/
def Obligations.Restart : Prop :=
  ∀ (n : BitVec 3) (s : State),
    Completes (.rst n) s (BitVec.ofNat 16 (8 * n.toNat))
      [.sp, .cell (s.sp - 1), .cell (s.sp - 2)] fun t =>
        t.sp = s.sp - 2 ∧ poppedWord t = s.pc + 1 ∧
        (t.readMem (s.sp - 1)).toNat = (s.pc + 1).toNat / 256 ∧
        (t.readMem (s.sp - 2)).toNat = (s.pc + 1).toNat % 256

/-! ## Stack -/

/-- Rules R260 and R261: `Push16(v)` writes the high byte at SP-1 and the low byte at SP-2, modulo 65536,
and then subtracts 2 from SP; `Pop16()` returns the word at SP and adds 2 to SP without changing memory;
so a pop after a push returns `v` and restores SP. -/
def Obligations.PushAndPopPrimitives : Prop :=
  ∀ (v : Word) (s : State),
    ((s.push16 v).readMem (s.sp - 1)).toNat = v.toNat / 256 ∧
    ((s.push16 v).readMem (s.sp - 2)).toNat = v.toNat % 256 ∧
    (s.push16 v).sp = s.sp - 2 ∧ (s.push16 v).pc = s.pc ∧
    Frame [.sp, .cell (s.sp - 1), .cell (s.sp - 2)] s (s.push16 v) ∧
    s.topOfStack = poppedWord s ∧ s.popped.sp = s.sp + 2 ∧ s.popped.pc = s.pc ∧
    Frame [.sp] s s.popped ∧
    (s.push16 v).topOfStack = v ∧ (s.push16 v).popped.sp = s.sp

/-- PUSH stores the pair, or for PSW A above all eight bits of F, and changes nothing but SP and those two
cells (44_stack.md section PUSH; which half lies higher in BC, DE and PSW is D22). -/
def Obligations.PushStoresThePair : Prop :=
  (∀ (pair : StackPair) (s : State),
    Completes (.push pair) s (s.pc + 1) [.sp, .cell (s.sp - 1), .cell (s.sp - 2)] fun t =>
      t.sp = s.sp - 2 ∧ t.readMem (s.sp - 1) = s.getReg (stackPairRegs pair).1 ∧
      t.readMem (s.sp - 2) = s.getReg (stackPairRegs pair).2) ∧
  ∀ s : State, Completes .pushPsw s (s.pc + 1) [.sp, .cell (s.sp - 1), .cell (s.sp - 2)] fun t =>
    t.sp = s.sp - 2 ∧ t.readMem (s.sp - 1) = s.getReg .a ∧ t.readMem (s.sp - 2) = s.f

/-- POP loads the low register from SP and the high one from SP+1; POP PSW replaces all eight bits of F;
memory is unchanged (44_stack.md section POP; D5, D22). -/
def Obligations.PopLoadsThePair : Prop :=
  (∀ (pair : StackPair) (s : State),
    Completes (.pop pair) s (s.pc + 1)
      [.sp, .reg (stackPairRegs pair).1, .reg (stackPairRegs pair).2] fun t =>
        t.sp = s.sp + 2 ∧ t.getReg (stackPairRegs pair).1 = s.readMem (s.sp + 1) ∧
        t.getReg (stackPairRegs pair).2 = s.readMem s.sp) ∧
  ∀ s : State, Completes .popPsw s (s.pc + 1) (.sp :: .reg .a :: .unusedBits :: allFlags) fun t =>
    t.sp = s.sp + 2 ∧ t.getReg .a = s.readMem (s.sp + 1) ∧ t.f = s.readMem s.sp

/-- XTHL exchanges L with the cell at SP and H with the cell at SP+1, and two of them restore every
register, flag and cell (44_stack.md section XTHL; D27). -/
def Obligations.XthlExchangesTheTopOfStack : Prop :=
  ∀ s : State,
    (Completes .xthl s (s.pc + 1) [.reg .h, .reg .l, .cell s.sp, .cell (s.sp + 1)] fun t =>
      t.getReg .l = s.readMem s.sp ∧ t.getReg .h = s.readMem (s.sp + 1) ∧
      t.readMem s.sp = s.getReg .l ∧ t.readMem (s.sp + 1) = s.getReg .h) ∧
    ∃ t u, exec .xthl s = .next t ∧ exec .xthl t = .next u ∧ u.pc = s.pc + 2 ∧ Frame [] s u

/-- PUSH of one pair and POP of another move the pair and restore SP: only the second pair's registers and
the two stack cells change (44_stack.md sections PUSH, POP; D22). -/
def Obligations.PushThenPop : Prop :=
  ∀ (pair other : StackPair) (s : State), ∃ t u, exec (.push pair) s = .next t ∧
    exec (.pop other) t = .next u ∧ stackPairValue u other = stackPairValue s pair ∧
    Frame [.reg (stackPairRegs other).1, .reg (stackPairRegs other).2, .cell (s.sp - 1),
      .cell (s.sp - 2)] s u

/-! ## I/O and control -/

/-- IN loads A with the byte the environment supplies to this draw, whatever it is, and uses the draw up;
OUT records the port and A after the earlier events and changes nothing else (45_io_control.md section
"IN, OUT"; D11, notes/assumptions/3.md, notes/assumptions/4.md). -/
def Obligations.PortInputAndOutput : Prop :=
  ∀ (port : Byte) (s : State),
    (Completes (.inPort port) s (s.pc + 2) [.reg .a, .inputs] fun t =>
      t.getReg .a = Config.ioRead s.ioReads port ∧ t.ioReads = s.ioReads + 1) ∧
    Completes (.outPort port) s (s.pc + 2) [.outputs] fun t =>
      t.ioWrites = s.ioWrites ++ [{ port := port, value := s.getReg .a }]

/-- EI writes 1 to IE, DI writes 0, HLT sets HALTED and moves PC past its byte (45_io_control.md sections
"EI, DI", HLT; D8, D9). -/
def Obligations.LatchInstructions : Prop :=
  ∀ s : State, (Completes .ei s (s.pc + 1) [.ie] fun t => t.ie = true) ∧
    (Completes .di s (s.pc + 1) [.ie] fun t => t.ie = false) ∧
    Completes .hlt s (s.pc + 1) [.halted] fun t => t.halted = true

/-- Rules R286 and R287: RIM, byte 0x20, and SIM, byte 0x30, advance PC and change nothing else, A
included. -/
def Obligations.RimAndSimOnlyAdvance : Prop :=
  ∀ s : State, encode .rim = [0x20] ∧ encode .sim = [0x30] ∧
    exec .rim s = .next { s with pc := s.pc + 1 } ∧
    exec .sim s = .next { s with pc := s.pc + 1 } ∧
    (Completes .rim s (s.pc + 1) [] fun t => t.getReg .a = s.getReg .a) ∧
    Completes .sim s (s.pc + 1) [] fun t => t.getReg .a = s.getReg .a

/-- A byte with no instruction: its step answers `UnimplementedOpcode` with the byte and the PC, for each of
the eleven, in every state (45_io_control.md section "The step driver"; the bytes by D1, D27, not latched
by D13). -/
def Obligations.UnimplementedAlwaysStops : Prop :=
  ∀ byte ∈ unimplementedBytes, ∀ s : State,
    exec (.unimplemented byte) s = .fault (.unimplementedOpcode byte s.pc) ∧
    (s.halted = false → s.readMem s.pc = byte →
      ∀ n, core.run (n + 1) s = .fault (.unimplementedOpcode byte s.pc) ∧ afterStep s = s)
end

