-- ==== Sys2Proof/Laws/Flags.lean ====
section
/-! SUPPORT. Words, bytes and the flag byte: what each helper computes, as numbers and flag by flag. -/

namespace Sys2Proof.Machine

open Sys2Proof.Safety

/-! ## Words and their halves -/

theorem hiByte_toNat (v : Word) : (hiByte v).toNat = v.toNat / 256 := by
  simp [hiByte, BitVec.extractLsb'_toNat, Nat.shiftRight_eq_div_pow]; omega

theorem loByte_toNat (v : Word) : (loByte v).toNat = v.toNat % 256 := by
  simp [loByte, BitVec.extractLsb'_toNat]

theorem wordOf_toNat (hi lo : Byte) : (wordOf hi lo).toNat = hi.toNat * 256 + lo.toNat := by
  have := lo.isLt
  simp only [wordOf, BitVec.toNat_append]
  rw [Nat.shiftLeft_eq, ← Nat.shiftLeft_eq, ← Nat.shiftLeft_add_eq_or_of_lt (by omega),
    Nat.shiftLeft_eq]

/-- Concatenation is the arithmetic of rule R10. -/
theorem wordOf_eq_word16 (hi lo : Byte) : wordOf hi lo = word16 hi lo := by
  apply BitVec.eq_of_toNat_eq
  rw [wordOf_toNat, word16, BitVec.toNat_ofNat, Nat.mod_eq_of_lt]
  have := hi.isLt; have := lo.isLt; omega

@[simp] theorem hiByte_wordOf (hi lo : Byte) : hiByte (wordOf hi lo) = hi := by
  apply BitVec.eq_of_toNat_eq
  rw [hiByte_toNat, wordOf_toNat]; have := lo.isLt; omega

@[simp] theorem loByte_wordOf (hi lo : Byte) : loByte (wordOf hi lo) = lo := by
  apply BitVec.eq_of_toNat_eq
  rw [loByte_toNat, wordOf_toNat]; have := lo.isLt; omega

@[simp] theorem wordOf_halves (v : Word) : wordOf (hiByte v) (loByte v) = v := by
  apply BitVec.eq_of_toNat_eq
  rw [wordOf_toNat, hiByte_toNat, loByte_toNat]; omega

theorem State.hl_eq_hlOf (s : State) : s.hl = hlOf s := wordOf_eq_word16 _ _

theorem State.topOfStack_eq_poppedWord (s : State) : s.topOfStack = poppedWord s :=
  wordOf_eq_word16 _ _

/-! ## One flag of the flag byte -/

/-- The flag written holds the value and the others are kept. -/
@[simp] theorem getFlag_setFlag (f : Byte) (g h : Flag) (v : Bool) :
    getFlag (setFlag f g v) h = if h = g then v else getFlag f h := by
  cases g <;> cases h <;> cases v <;> simp [getFlag, setFlag, Flag.bit]

/-- Bits 5, 3 and 1 are never written by a flag (rule R156). -/
@[simp] theorem setFlag_unusedBits (f : Byte) (g : Flag) (v : Bool) :
    setFlag f g v &&& 0x2A#8 = f &&& 0x2A#8 := by
  revert f; cases g <;> cases v <;> decide

/-- Writing a flag commutes with dropping bits 5, 3 and 1. -/
theorem setFlag_and_meaningful (f : Byte) (g : Flag) (v : Bool) :
    setFlag f g v &&& 0xD5#8 = setFlag (f &&& 0xD5#8) g v := by
  revert f; cases g <;> cases v <;> decide

/-- Every flag is read from the meaningful bits. -/
theorem getFlag_and_meaningful (f : Byte) (g : Flag) : getFlag (f &&& 0xD5#8) g = getFlag f g := by
  revert f; cases g <;> decide

/-! ## The flags of each kind -/

theorem getFlag_setSZP (f res : Byte) (g : Flag) :
    getFlag (setSZP f res) g = match g with
      | .s => res.getLsbD 7
      | .z => res == 0
      | .p => parityEven res
      | .ac => getFlag f .ac
      | .cy => getFlag f .cy := by
  cases g <;> simp [setSZP]

theorem getFlag_setCarries (f : Byte) (ac cy : Bool) (g : Flag) :
    getFlag (setCarries f ac cy) g = match g with
      | .ac => ac
      | .cy => cy
      | g => getFlag f g := by
  cases g <;> simp [setCarries]

@[simp] theorem setSZP_unusedBits (f res : Byte) : setSZP f res &&& 0x2A#8 = f &&& 0x2A#8 := by
  simp [setSZP]

@[simp] theorem setCarries_unusedBits (f : Byte) (ac cy : Bool) :
    setCarries f ac cy &&& 0x2A#8 = f &&& 0x2A#8 := by
  simp [setCarries]

/-! ## Results as numbers -/

theorem addResult_toNat (a b : Byte) (c : Bool) :
    (addResult a b c).toNat = (a.toNat + b.toNat + c.toNat) % 256 := by
  cases c <;> simp [addResult, carryByte]

theorem subResult_toNat (a b : Byte) (c : Bool) :
    ((subResult a b c).toNat : Int) = ((a.toNat : Int) - b.toNat - c.toNat) % 256 := by
  have := a.isLt; have := b.isLt
  cases c <;> simp [subResult, carryByte, BitVec.toNat_sub] <;> omega

/-- Sign is "128 or more". -/
theorem getLsbD_seven (v : Byte) : v.getLsbD 7 = decide (128 ≤ v.toNat) := by
  revert v; decide

/-- Parity is the evenness of the count of 1 bits. -/
theorem parityEven_eq_onesIn (v : Byte) : parityEven v = decide (onesIn v.toNat % 2 = 0) := by
  revert v; decide

/-- Zero is the number 0. -/
theorem beq_zero_eq (v : Byte) : (v == 0) = decide (v.toNat = 0) := by
  revert v; decide

end Sys2Proof.Machine
end

