-- ==== Sys2Proof/Laws/State.lean ====
section
/-! SUPPORT. One lemma per field and update of `State`, and the reads of registers, memory and flags through
every update that leaves them alone. -/

namespace Sys2Proof.Machine

variable (s : State)

/-! ### cleared and create -/

@[simp] theorem State.cleared_getReg (spReset : Word) (mem : Memory) (q : Reg) :
    (State.cleared spReset mem).getReg q = 0 := by
  cases q <;> rfl
@[simp] theorem State.cleared_f (spReset : Word) (mem : Memory) :
    (State.cleared spReset mem).f = 0 := rfl
@[simp] theorem State.cleared_pc (spReset : Word) (mem : Memory) :
    (State.cleared spReset mem).pc = 0 := rfl
@[simp] theorem State.cleared_sp (spReset : Word) (mem : Memory) :
    (State.cleared spReset mem).sp = spReset := rfl
@[simp] theorem State.cleared_ie (spReset : Word) (mem : Memory) :
    (State.cleared spReset mem).ie = false := rfl
@[simp] theorem State.cleared_halted (spReset : Word) (mem : Memory) :
    (State.cleared spReset mem).halted = false := rfl
@[simp] theorem State.cleared_mem (spReset : Word) (mem : Memory) :
    (State.cleared spReset mem).mem = mem := rfl
@[simp] theorem State.cleared_ioReads (spReset : Word) (mem : Memory) :
    (State.cleared spReset mem).ioReads = 0 := rfl
@[simp] theorem State.cleared_ioWrites (spReset : Word) (mem : Memory) :
    (State.cleared spReset mem).ioWrites = [] := rfl
@[simp] theorem State.create_pc (spReset : Word) (memInit : Word → Byte) :
    (State.create spReset memInit).pc = 0 := rfl
@[simp] theorem State.create_mem (spReset : Word) (memInit : Word → Byte) :
    (State.create spReset memInit).mem = Memory.ofInit memInit := rfl
@[simp] theorem State.create_halted (spReset : Word) (memInit : Word → Byte) :
    (State.create spReset memInit).halted = false := rfl

/-! ### setReg -/

@[simp] theorem State.setReg_regs (r : Reg) (v : Byte) : (s.setReg r v).regs = s.regs.set r v := rfl
@[simp] theorem State.setReg_f (r : Reg) (v : Byte) : (s.setReg r v).f = s.f := rfl
@[simp] theorem State.setReg_pc (r : Reg) (v : Byte) : (s.setReg r v).pc = s.pc := rfl
@[simp] theorem State.setReg_sp (r : Reg) (v : Byte) : (s.setReg r v).sp = s.sp := rfl
@[simp] theorem State.setReg_ie (r : Reg) (v : Byte) : (s.setReg r v).ie = s.ie := rfl
@[simp] theorem State.setReg_halted (r : Reg) (v : Byte) : (s.setReg r v).halted = s.halted := rfl
@[simp] theorem State.setReg_mem (r : Reg) (v : Byte) : (s.setReg r v).mem = s.mem := rfl
@[simp] theorem State.setReg_ioReads (r : Reg) (v : Byte) : (s.setReg r v).ioReads =
    s.ioReads := rfl
@[simp] theorem State.setReg_ioWrites (r : Reg) (v : Byte) : (s.setReg r v).ioWrites =
    s.ioWrites := rfl
@[simp] theorem State.setReg_readMem (r : Reg) (v : Byte) (b : Word) :
    (s.setReg r v).readMem b = s.readMem b := rfl
@[simp] theorem State.setReg_flag (r : Reg) (v : Byte) (g : Flag) :
    (s.setReg r v).flag g = s.flag g := rfl
@[simp] theorem State.setReg_topOfStack (r : Reg) (v : Byte) :
    (s.setReg r v).topOfStack = s.topOfStack := rfl

/-! ### setF -/

@[simp] theorem State.setF_regs (f : Byte) : (s.setF f).regs = s.regs := rfl
@[simp] theorem State.setF_f (f : Byte) : (s.setF f).f = f := rfl
@[simp] theorem State.setF_pc (f : Byte) : (s.setF f).pc = s.pc := rfl
@[simp] theorem State.setF_sp (f : Byte) : (s.setF f).sp = s.sp := rfl
@[simp] theorem State.setF_ie (f : Byte) : (s.setF f).ie = s.ie := rfl
@[simp] theorem State.setF_halted (f : Byte) : (s.setF f).halted = s.halted := rfl
@[simp] theorem State.setF_mem (f : Byte) : (s.setF f).mem = s.mem := rfl
@[simp] theorem State.setF_ioReads (f : Byte) : (s.setF f).ioReads = s.ioReads := rfl
@[simp] theorem State.setF_ioWrites (f : Byte) : (s.setF f).ioWrites = s.ioWrites := rfl
@[simp] theorem State.setF_getReg (f : Byte) (q : Reg) :
    (s.setF f).getReg q = s.getReg q := rfl
@[simp] theorem State.setF_pairOf (f : Byte) (x y : Reg) :
    (s.setF f).pairOf x y = s.pairOf x y := rfl
@[simp] theorem State.setF_hl (f : Byte) : (s.setF f).hl = s.hl := rfl
@[simp] theorem State.setF_readMem (f : Byte) (b : Word) :
    (s.setF f).readMem b = s.readMem b := rfl
@[simp] theorem State.setF_topOfStack (f : Byte) :
    (s.setF f).topOfStack = s.topOfStack := rfl

/-! ### setPc -/

@[simp] theorem State.setPc_regs (pc : Word) : (s.setPc pc).regs = s.regs := rfl
@[simp] theorem State.setPc_f (pc : Word) : (s.setPc pc).f = s.f := rfl
@[simp] theorem State.setPc_pc (pc : Word) : (s.setPc pc).pc = pc := rfl
@[simp] theorem State.setPc_sp (pc : Word) : (s.setPc pc).sp = s.sp := rfl
@[simp] theorem State.setPc_ie (pc : Word) : (s.setPc pc).ie = s.ie := rfl
@[simp] theorem State.setPc_halted (pc : Word) : (s.setPc pc).halted = s.halted := rfl
@[simp] theorem State.setPc_mem (pc : Word) : (s.setPc pc).mem = s.mem := rfl
@[simp] theorem State.setPc_ioReads (pc : Word) : (s.setPc pc).ioReads = s.ioReads := rfl
@[simp] theorem State.setPc_ioWrites (pc : Word) : (s.setPc pc).ioWrites = s.ioWrites := rfl
@[simp] theorem State.setPc_getReg (pc : Word) (q : Reg) :
    (s.setPc pc).getReg q = s.getReg q := rfl
@[simp] theorem State.setPc_pairOf (pc : Word) (x y : Reg) :
    (s.setPc pc).pairOf x y = s.pairOf x y := rfl
@[simp] theorem State.setPc_hl (pc : Word) : (s.setPc pc).hl = s.hl := rfl
@[simp] theorem State.setPc_readMem (pc : Word) (b : Word) :
    (s.setPc pc).readMem b = s.readMem b := rfl
@[simp] theorem State.setPc_flag (pc : Word) (g : Flag) :
    (s.setPc pc).flag g = s.flag g := rfl
@[simp] theorem State.setPc_topOfStack (pc : Word) :
    (s.setPc pc).topOfStack = s.topOfStack := rfl

/-! ### setSp -/

@[simp] theorem State.setSp_regs (sp : Word) : (s.setSp sp).regs = s.regs := rfl
@[simp] theorem State.setSp_f (sp : Word) : (s.setSp sp).f = s.f := rfl
@[simp] theorem State.setSp_pc (sp : Word) : (s.setSp sp).pc = s.pc := rfl
@[simp] theorem State.setSp_sp (sp : Word) : (s.setSp sp).sp = sp := rfl
@[simp] theorem State.setSp_ie (sp : Word) : (s.setSp sp).ie = s.ie := rfl
@[simp] theorem State.setSp_halted (sp : Word) : (s.setSp sp).halted = s.halted := rfl
@[simp] theorem State.setSp_mem (sp : Word) : (s.setSp sp).mem = s.mem := rfl
@[simp] theorem State.setSp_ioReads (sp : Word) : (s.setSp sp).ioReads = s.ioReads := rfl
@[simp] theorem State.setSp_ioWrites (sp : Word) : (s.setSp sp).ioWrites = s.ioWrites := rfl
@[simp] theorem State.setSp_getReg (sp : Word) (q : Reg) :
    (s.setSp sp).getReg q = s.getReg q := rfl
@[simp] theorem State.setSp_pairOf (sp : Word) (x y : Reg) :
    (s.setSp sp).pairOf x y = s.pairOf x y := rfl
@[simp] theorem State.setSp_hl (sp : Word) : (s.setSp sp).hl = s.hl := rfl
@[simp] theorem State.setSp_readMem (sp : Word) (b : Word) :
    (s.setSp sp).readMem b = s.readMem b := rfl
@[simp] theorem State.setSp_flag (sp : Word) (g : Flag) :
    (s.setSp sp).flag g = s.flag g := rfl

/-! ### setIe -/

@[simp] theorem State.setIe_regs (ie : Bool) : (s.setIe ie).regs = s.regs := rfl
@[simp] theorem State.setIe_f (ie : Bool) : (s.setIe ie).f = s.f := rfl
@[simp] theorem State.setIe_pc (ie : Bool) : (s.setIe ie).pc = s.pc := rfl
@[simp] theorem State.setIe_sp (ie : Bool) : (s.setIe ie).sp = s.sp := rfl
@[simp] theorem State.setIe_ie (ie : Bool) : (s.setIe ie).ie = ie := rfl
@[simp] theorem State.setIe_halted (ie : Bool) : (s.setIe ie).halted = s.halted := rfl
@[simp] theorem State.setIe_mem (ie : Bool) : (s.setIe ie).mem = s.mem := rfl
@[simp] theorem State.setIe_ioReads (ie : Bool) : (s.setIe ie).ioReads = s.ioReads := rfl
@[simp] theorem State.setIe_ioWrites (ie : Bool) : (s.setIe ie).ioWrites = s.ioWrites := rfl
@[simp] theorem State.setIe_getReg (ie : Bool) (q : Reg) :
    (s.setIe ie).getReg q = s.getReg q := rfl
@[simp] theorem State.setIe_pairOf (ie : Bool) (x y : Reg) :
    (s.setIe ie).pairOf x y = s.pairOf x y := rfl
@[simp] theorem State.setIe_hl (ie : Bool) : (s.setIe ie).hl = s.hl := rfl
@[simp] theorem State.setIe_readMem (ie : Bool) (b : Word) :
    (s.setIe ie).readMem b = s.readMem b := rfl
@[simp] theorem State.setIe_flag (ie : Bool) (g : Flag) :
    (s.setIe ie).flag g = s.flag g := rfl
@[simp] theorem State.setIe_topOfStack (ie : Bool) :
    (s.setIe ie).topOfStack = s.topOfStack := rfl

/-! ### setHalted -/

@[simp] theorem State.setHalted_regs (halted : Bool) : (s.setHalted halted).regs = s.regs := rfl
@[simp] theorem State.setHalted_f (halted : Bool) : (s.setHalted halted).f = s.f := rfl
@[simp] theorem State.setHalted_pc (halted : Bool) : (s.setHalted halted).pc = s.pc := rfl
@[simp] theorem State.setHalted_sp (halted : Bool) : (s.setHalted halted).sp = s.sp := rfl
@[simp] theorem State.setHalted_ie (halted : Bool) : (s.setHalted halted).ie = s.ie := rfl
@[simp] theorem State.setHalted_halted (halted : Bool) : (s.setHalted halted).halted = halted := rfl
@[simp] theorem State.setHalted_mem (halted : Bool) : (s.setHalted halted).mem = s.mem := rfl
@[simp] theorem State.setHalted_ioReads (halted : Bool) : (s.setHalted halted).ioReads =
    s.ioReads := rfl
@[simp] theorem State.setHalted_ioWrites (halted : Bool) : (s.setHalted halted).ioWrites =
    s.ioWrites := rfl
@[simp] theorem State.setHalted_getReg (halted : Bool) (q : Reg) :
    (s.setHalted halted).getReg q = s.getReg q := rfl
@[simp] theorem State.setHalted_pairOf (halted : Bool) (x y : Reg) :
    (s.setHalted halted).pairOf x y = s.pairOf x y := rfl
@[simp] theorem State.setHalted_hl (halted : Bool) : (s.setHalted halted).hl = s.hl := rfl
@[simp] theorem State.setHalted_readMem (halted : Bool) (b : Word) :
    (s.setHalted halted).readMem b = s.readMem b := rfl
@[simp] theorem State.setHalted_flag (halted : Bool) (g : Flag) :
    (s.setHalted halted).flag g = s.flag g := rfl
@[simp] theorem State.setHalted_topOfStack (halted : Bool) :
    (s.setHalted halted).topOfStack = s.topOfStack := rfl

/-! ### writeMem -/

@[simp] theorem State.writeMem_regs (a : Word) (v : Byte) : (s.writeMem a v).regs = s.regs := rfl
@[simp] theorem State.writeMem_f (a : Word) (v : Byte) : (s.writeMem a v).f = s.f := rfl
@[simp] theorem State.writeMem_pc (a : Word) (v : Byte) : (s.writeMem a v).pc = s.pc := rfl
@[simp] theorem State.writeMem_sp (a : Word) (v : Byte) : (s.writeMem a v).sp = s.sp := rfl
@[simp] theorem State.writeMem_ie (a : Word) (v : Byte) : (s.writeMem a v).ie = s.ie := rfl
@[simp] theorem State.writeMem_halted (a : Word) (v : Byte) : (s.writeMem a v).halted =
    s.halted := rfl
@[simp] theorem State.writeMem_mem (a : Word) (v : Byte) : (s.writeMem a v).mem =
    Memory.write s.mem a.toNat v := rfl
@[simp] theorem State.writeMem_ioReads (a : Word) (v : Byte) : (s.writeMem a v).ioReads =
    s.ioReads := rfl
@[simp] theorem State.writeMem_ioWrites (a : Word) (v : Byte) : (s.writeMem a v).ioWrites =
    s.ioWrites := rfl
@[simp] theorem State.writeMem_getReg (a : Word) (v : Byte) (q : Reg) :
    (s.writeMem a v).getReg q = s.getReg q := rfl
@[simp] theorem State.writeMem_pairOf (a : Word) (v : Byte) (x y : Reg) :
    (s.writeMem a v).pairOf x y = s.pairOf x y := rfl
@[simp] theorem State.writeMem_hl (a : Word) (v : Byte) : (s.writeMem a v).hl = s.hl := rfl
@[simp] theorem State.writeMem_flag (a : Word) (v : Byte) (g : Flag) :
    (s.writeMem a v).flag g = s.flag g := rfl

/-! ### setPairOf -/

@[simp] theorem State.setPairOf_regs (hi lo : Reg) (v : Word) : (s.setPairOf hi lo v).regs =
    (s.regs.set hi (hiByte v)).set lo (loByte v) := rfl
@[simp] theorem State.setPairOf_f (hi lo : Reg) (v : Word) : (s.setPairOf hi lo v).f = s.f := rfl
@[simp] theorem State.setPairOf_pc (hi lo : Reg) (v : Word) : (s.setPairOf hi lo v).pc = s.pc := rfl
@[simp] theorem State.setPairOf_sp (hi lo : Reg) (v : Word) : (s.setPairOf hi lo v).sp = s.sp := rfl
@[simp] theorem State.setPairOf_ie (hi lo : Reg) (v : Word) : (s.setPairOf hi lo v).ie = s.ie := rfl
@[simp] theorem State.setPairOf_halted (hi lo : Reg) (v : Word) : (s.setPairOf hi lo v).halted =
    s.halted := rfl
@[simp] theorem State.setPairOf_mem (hi lo : Reg) (v : Word) : (s.setPairOf hi lo v).mem =
    s.mem := rfl
@[simp] theorem State.setPairOf_ioReads (hi lo : Reg) (v : Word) : (s.setPairOf hi lo v).ioReads =
    s.ioReads := rfl
@[simp] theorem State.setPairOf_ioWrites (hi lo : Reg) (v : Word) : (s.setPairOf hi lo v).ioWrites =
    s.ioWrites := rfl
@[simp] theorem State.setPairOf_readMem (hi lo : Reg) (v : Word) (b : Word) :
    (s.setPairOf hi lo v).readMem b = s.readMem b := rfl
@[simp] theorem State.setPairOf_flag (hi lo : Reg) (v : Word) (g : Flag) :
    (s.setPairOf hi lo v).flag g = s.flag g := rfl
@[simp] theorem State.setPairOf_topOfStack (hi lo : Reg) (v : Word) :
    (s.setPairOf hi lo v).topOfStack = s.topOfStack := rfl

/-! ### countIoRead -/

@[simp] theorem State.countIoRead_regs : (s.countIoRead).regs = s.regs := rfl
@[simp] theorem State.countIoRead_f : (s.countIoRead).f = s.f := rfl
@[simp] theorem State.countIoRead_pc : (s.countIoRead).pc = s.pc := rfl
@[simp] theorem State.countIoRead_sp : (s.countIoRead).sp = s.sp := rfl
@[simp] theorem State.countIoRead_ie : (s.countIoRead).ie = s.ie := rfl
@[simp] theorem State.countIoRead_halted : (s.countIoRead).halted = s.halted := rfl
@[simp] theorem State.countIoRead_mem : (s.countIoRead).mem = s.mem := rfl
@[simp] theorem State.countIoRead_ioReads : (s.countIoRead).ioReads = s.ioReads + 1 := rfl
@[simp] theorem State.countIoRead_ioWrites : (s.countIoRead).ioWrites = s.ioWrites := rfl
@[simp] theorem State.countIoRead_getReg (q : Reg) :
    (s.countIoRead).getReg q = s.getReg q := rfl
@[simp] theorem State.countIoRead_pairOf (x y : Reg) :
    (s.countIoRead).pairOf x y = s.pairOf x y := rfl
@[simp] theorem State.countIoRead_hl : (s.countIoRead).hl = s.hl := rfl
@[simp] theorem State.countIoRead_readMem (b : Word) :
    (s.countIoRead).readMem b = s.readMem b := rfl
@[simp] theorem State.countIoRead_flag (g : Flag) :
    (s.countIoRead).flag g = s.flag g := rfl
@[simp] theorem State.countIoRead_topOfStack :
    (s.countIoRead).topOfStack = s.topOfStack := rfl

/-! ### emitIoWrite -/

@[simp] theorem State.emitIoWrite_regs (port v : Byte) : (s.emitIoWrite port v).regs = s.regs := rfl
@[simp] theorem State.emitIoWrite_f (port v : Byte) : (s.emitIoWrite port v).f = s.f := rfl
@[simp] theorem State.emitIoWrite_pc (port v : Byte) : (s.emitIoWrite port v).pc = s.pc := rfl
@[simp] theorem State.emitIoWrite_sp (port v : Byte) : (s.emitIoWrite port v).sp = s.sp := rfl
@[simp] theorem State.emitIoWrite_ie (port v : Byte) : (s.emitIoWrite port v).ie = s.ie := rfl
@[simp] theorem State.emitIoWrite_halted (port v : Byte) : (s.emitIoWrite port v).halted =
    s.halted := rfl
@[simp] theorem State.emitIoWrite_mem (port v : Byte) : (s.emitIoWrite port v).mem = s.mem := rfl
@[simp] theorem State.emitIoWrite_ioReads (port v : Byte) : (s.emitIoWrite port v).ioReads =
    s.ioReads := rfl
@[simp] theorem State.emitIoWrite_ioWrites (port v : Byte) : (s.emitIoWrite port v).ioWrites =
    s.ioWrites ++ [{ port := port, value := v }] := rfl
@[simp] theorem State.emitIoWrite_getReg (port v : Byte) (q : Reg) :
    (s.emitIoWrite port v).getReg q = s.getReg q := rfl
@[simp] theorem State.emitIoWrite_pairOf (port v : Byte) (x y : Reg) :
    (s.emitIoWrite port v).pairOf x y = s.pairOf x y := rfl
@[simp] theorem State.emitIoWrite_hl (port v : Byte) : (s.emitIoWrite port v).hl = s.hl := rfl
@[simp] theorem State.emitIoWrite_readMem (port v : Byte) (b : Word) :
    (s.emitIoWrite port v).readMem b = s.readMem b := rfl
@[simp] theorem State.emitIoWrite_flag (port v : Byte) (g : Flag) :
    (s.emitIoWrite port v).flag g = s.flag g := rfl
@[simp] theorem State.emitIoWrite_topOfStack (port v : Byte) :
    (s.emitIoWrite port v).topOfStack = s.topOfStack := rfl

/-! ### push16 -/

@[simp] theorem State.push16_regs (v : Word) : (s.push16 v).regs = s.regs := rfl
@[simp] theorem State.push16_f (v : Word) : (s.push16 v).f = s.f := rfl
@[simp] theorem State.push16_pc (v : Word) : (s.push16 v).pc = s.pc := rfl
@[simp] theorem State.push16_sp (v : Word) : (s.push16 v).sp = s.sp - 2 := rfl
@[simp] theorem State.push16_ie (v : Word) : (s.push16 v).ie = s.ie := rfl
@[simp] theorem State.push16_halted (v : Word) : (s.push16 v).halted = s.halted := rfl
@[simp] theorem State.push16_mem (v : Word) : (s.push16 v).mem =
    Memory.write (Memory.write s.mem (s.sp - 1).toNat (hiByte v)) (s.sp - 2).toNat (loByte v) := rfl
@[simp] theorem State.push16_ioReads (v : Word) : (s.push16 v).ioReads = s.ioReads := rfl
@[simp] theorem State.push16_ioWrites (v : Word) : (s.push16 v).ioWrites = s.ioWrites := rfl
@[simp] theorem State.push16_getReg (v : Word) (q : Reg) :
    (s.push16 v).getReg q = s.getReg q := rfl
@[simp] theorem State.push16_pairOf (v : Word) (x y : Reg) :
    (s.push16 v).pairOf x y = s.pairOf x y := rfl
@[simp] theorem State.push16_hl (v : Word) : (s.push16 v).hl = s.hl := rfl
@[simp] theorem State.push16_flag (v : Word) (g : Flag) :
    (s.push16 v).flag g = s.flag g := rfl

/-! ### popped -/

@[simp] theorem State.popped_regs : (s.popped).regs = s.regs := rfl
@[simp] theorem State.popped_f : (s.popped).f = s.f := rfl
@[simp] theorem State.popped_pc : (s.popped).pc = s.pc := rfl
@[simp] theorem State.popped_sp : (s.popped).sp = s.sp + 2 := rfl
@[simp] theorem State.popped_ie : (s.popped).ie = s.ie := rfl
@[simp] theorem State.popped_halted : (s.popped).halted = s.halted := rfl
@[simp] theorem State.popped_mem : (s.popped).mem = s.mem := rfl
@[simp] theorem State.popped_ioReads : (s.popped).ioReads = s.ioReads := rfl
@[simp] theorem State.popped_ioWrites : (s.popped).ioWrites = s.ioWrites := rfl
@[simp] theorem State.popped_getReg (q : Reg) :
    (s.popped).getReg q = s.getReg q := rfl
@[simp] theorem State.popped_pairOf (x y : Reg) :
    (s.popped).pairOf x y = s.pairOf x y := rfl
@[simp] theorem State.popped_hl : (s.popped).hl = s.hl := rfl
@[simp] theorem State.popped_readMem (b : Word) :
    (s.popped).readMem b = s.readMem b := rfl
@[simp] theorem State.popped_flag (g : Flag) :
    (s.popped).flag g = s.flag g := rfl

@[simp] theorem State.setF_flag (f : Byte) (g : Flag) : (s.setF f).flag g = getFlag f g := rfl

/-! ### The register file -/

/-- A register reads what was last written to it, and every other register reads as before. -/
@[simp] theorem Regs.get_set (rs : Regs) (r q : Reg) (v : Byte) :
    (rs.set r v).get q = if q = r then v else rs.get q := by
  cases r <;> cases q <;> rfl

/-- Two register files that read the same everywhere are equal. -/
theorem Regs.eq_of_get {rs qs : Regs} (h : ∀ r, rs.get r = qs.get r) : rs = qs := by
  cases rs; cases qs
  simpa [Regs.get] using And.intro (h .a) ⟨h .b, h .c, h .d, h .e, h .h, h .l⟩

@[simp] theorem State.setReg_getReg (r q : Reg) (v : Byte) :
    (s.setReg r v).getReg q = if q = r then v else s.getReg q := by
  simp [State.getReg]

@[simp] theorem State.setPairOf_getReg (hi lo q : Reg) (v : Word) :
    (s.setPairOf hi lo v).getReg q =
      if q = lo then loByte v else if q = hi then hiByte v else s.getReg q := by
  simp [State.getReg]

/-! ### setF and the other updates commute

Not simp lemmas: a proof about F alone uses them to bring `setF` to the outside. -/

theorem State.setF_setF (f g : Byte) : (s.setF f).setF g = s.setF g := rfl
theorem State.setReg_setF (f : Byte) (r : Reg) (v : Byte) :
    (s.setF f).setReg r v = (s.setReg r v).setF f := rfl
theorem State.setPairOf_setF (f : Byte) (x y : Reg) (v : Word) :
    (s.setF f).setPairOf x y v = (s.setPairOf x y v).setF f := rfl
theorem State.setPc_setF (f : Byte) (pc : Word) : (s.setF f).setPc pc = (s.setPc pc).setF f := rfl
theorem State.setSp_setF (f : Byte) (sp : Word) : (s.setF f).setSp sp = (s.setSp sp).setF f := rfl
theorem State.writeMem_setF (f : Byte) (a : Word) (v : Byte) :
    (s.setF f).writeMem a v = (s.writeMem a v).setF f := rfl

end Sys2Proof.Machine
end

