-- ==== Sys2Proof/Laws/Memory.lean ====
section
/-! SUPPORT. Memory: a read after a write, and that every operation keeps the canonical form. Nothing here
uses the value of `Config.memInit`. -/

namespace Sys2Proof.Machine

/-! ## Read after write -/

theorem Memory.read_erase (m : Memory) (a b : Nat) :
    (m.erase a).read b = if b = a then Config.memInit b else m.read b := by
  induction m with
  | nil => simp [Memory.erase, Memory.read]
  | cons cell rest ih =>
    obtain ⟨x, w⟩ := cell
    simp only [Memory.erase] at ih ⊢
    by_cases hx : x = a
    · subst hx
      simp only [List.filter_cons, bne_self_eq_false, Bool.false_eq_true, if_false, ih, Memory.read]
      split <;> simp_all [eq_comm]
    · simp only [List.filter_cons, bne_iff_ne, ne_eq, hx, not_false_eq_true, if_true, Memory.read, ih]
      split <;> simp_all

theorem Memory.read_insert (m : Memory) (a b : Nat) (v : Byte) :
    (m.insert a v).read b = if b = a then v else m.read b := by
  induction m with
  | nil => simp only [Memory.insert, Memory.read, eq_comm]
  | cons cell rest ih =>
    obtain ⟨x, w⟩ := cell
    simp only [Memory.insert]
    split
    · simp only [Memory.read, ih]
      split
      · split <;> [omega; rfl]
      · rfl
    · split
      · subst x
        simp only [Memory.read, eq_comm]
        split <;> rfl
      · simp only [Memory.read, eq_comm (a := a)]

/-- The cell written reads the value, every other cell reads as before, and no cell's creation value
matters. -/
theorem Memory.read_write (m : Memory) (a b : Nat) (v : Byte) :
    (m.write a v).read b = if b = a then v else m.read b := by
  unfold Memory.write
  split
  · subst v
    rw [Memory.read_erase]
    split <;> simp_all
  · exact Memory.read_insert m a b v

@[simp] theorem State.writeMem_readMem (s : State) (a b : Word) (v : Byte) :
    (s.writeMem a v).readMem b = if b = a then v else s.readMem b := by
  simp [State.readMem, Memory.read_write, ← BitVec.toNat_inj]

/-- `push16` writes the two cells below SP and no other. -/
theorem State.push16_readMem (s : State) (v b : Word) :
    (s.push16 v).readMem b =
      if b = s.sp - 2 then loByte v else if b = s.sp - 1 then hiByte v else s.readMem b := by
  simp [State.push16]

/-! ## Creation -/

theorem Memory.mem_addresses {a : Nat} : a ∈ Memory.addresses ↔ a < 65536 := by
  unfold Memory.addresses
  exact List.mem_range

theorem Memory.addresses_rising : Memory.addresses.Pairwise (· < ·) := by
  unfold Memory.addresses
  exact List.pairwise_lt_range

theorem Memory.read_listed (byteAt : Nat → Byte) (addresses : List Nat) (b : Nat) :
    (Memory.listed byteAt addresses).read b =
      if b ∈ addresses then byteAt b else Config.memInit b := by
  induction addresses with
  | nil => simp [Memory.listed, Memory.read]
  | cons a rest ih =>
    by_cases keep : byteAt a = Config.memInit a
    · have same : Memory.listed byteAt (a :: rest) = Memory.listed byteAt rest := by
        simp [Memory.listed, keep]
      rw [same, ih]
      by_cases h : b = a
      · subst b
        simp [keep]
      · simp [h]
    · have more : Memory.listed byteAt (a :: rest) = (a, byteAt a) :: Memory.listed byteAt rest := by
        simp [Memory.listed, keep]
      rw [more, Memory.read, ih]
      by_cases h : a = b
      · simp [h]
      · simp [h, Ne.symm h]

/-- At creation each cell holds `MEM_INIT` of its address, whatever `MEM_INIT` is. -/
@[simp] theorem State.create_readMem (spReset : Word) (memInit : Word → Byte) (a : Word) :
    (State.create spReset memInit).readMem a = memInit a := by
  rw [State.readMem, State.create_mem, Memory.ofInit, Memory.read_listed,
    if_pos (Memory.mem_addresses.2 a.isLt), BitVec.ofNat_toNat, BitVec.setWidth_eq]

/-! ## The canonical form -/

theorem Memory.nil_wf : Memory.wf [] := ⟨List.Pairwise.nil, by simp⟩

theorem Memory.listed_wf (byteAt : Nat → Byte) {addresses : List Nat}
    (rising : addresses.Pairwise (· < ·)) (inside : ∀ a ∈ addresses, a < 65536) :
    (Memory.listed byteAt addresses).wf := by
  refine ⟨List.pairwise_map.2 (rising.filter _), fun x hx => ?_⟩
  obtain ⟨a, ha, rfl⟩ := List.mem_map.1 hx
  obtain ⟨listed, differs⟩ := List.mem_filter.1 ha
  exact ⟨inside a listed, by simpa using differs⟩

theorem Memory.ofInit_wf (memInit : Word → Byte) : (Memory.ofInit memInit).wf :=
  Memory.listed_wf _ Memory.addresses_rising fun _ => Memory.mem_addresses.1

/-- With the default `MEM_INIT` nothing is listed, as in `State.reset`. -/
theorem Memory.ofInit_default : Memory.ofInit (fun a => Config.memInit a.toNat) = [] := by
  simp only [Memory.ofInit, Memory.listed, List.map_eq_nil_iff, List.filter_eq_nil_iff,
    Memory.mem_addresses]
  intro a ha
  simp [Nat.mod_eq_of_lt ha]

theorem Memory.erase_wf {m : Memory} (h : m.wf) (a : Nat) : (m.erase a).wf :=
  ⟨h.1.filter _, fun x hx => h.2 x (List.mem_of_mem_filter hx)⟩

/-- What `insert` lists: the new cell, or a cell that was listed. -/
theorem Memory.mem_insert {m : Memory} {a : Nat} {v : Byte} {x : Host.Cell}
    (h : x ∈ m.insert a v) : x = (a, v) ∨ x ∈ m := by
  induction m with
  | nil => simpa [Memory.insert] using h
  | cons cell rest ih =>
    obtain ⟨y, w⟩ := cell
    simp only [Memory.insert] at h
    split at h
    · rcases List.mem_cons.1 h with rfl | h
      · simp
      · rcases ih h with h | h <;> simp [h]
    · split at h <;> rcases List.mem_cons.1 h with rfl | h <;> simp_all

theorem Memory.insert_wf {m : Memory} (h : m.wf) {a : Nat} {v : Byte} (inside : a < 65536)
    (differs : v ≠ Config.memInit a) : (m.insert a v).wf := by
  refine ⟨?_, fun x hx => ?_⟩
  · have hp := h.1
    clear h
    induction m with
    | nil => simp [Memory.insert]
    | cons cell rest ih =>
      obtain ⟨y, w⟩ := cell
      obtain ⟨hy, hrest⟩ := List.pairwise_cons.1 hp
      simp only [Memory.insert]
      split
      · refine List.pairwise_cons.2 ⟨fun x hx => ?_, ih hrest⟩
        rcases Memory.mem_insert hx with rfl | hx
        · assumption
        · exact hy x hx
      · split
        · subst y
          exact List.pairwise_cons.2 ⟨hy, hrest⟩
        · refine List.pairwise_cons.2 ⟨fun x hx => ?_, hp⟩
          rcases List.mem_cons.1 hx with rfl | hx
          · show a < y
            omega
          · have := hy x hx
            show a < x.1
            simp only at this
            omega
  · rcases Memory.mem_insert hx with rfl | hx
    · exact ⟨inside, differs⟩
    · exact h.2 x hx

/-- A write inside the address space keeps the canonical form. -/
theorem Memory.write_wf {m : Memory} (h : m.wf) {a : Nat} (inside : a < 65536) (v : Byte) :
    (m.write a v).wf := by
  unfold Memory.write
  split
  · exact Memory.erase_wf h a
  · exact Memory.insert_wf h inside ‹_›

theorem State.writeMem_wf {s : State} (h : s.mem.wf) (a : Word) (v : Byte) :
    (s.writeMem a v).mem.wf := Memory.write_wf h a.isLt v

theorem State.push16_wf {s : State} (h : s.mem.wf) (v : Word) : (s.push16 v).mem.wf :=
  Memory.write_wf (Memory.write_wf h (s.sp - 1).isLt _) (s.sp - 2).isLt _

end Sys2Proof.Machine
end

