-- ==== Sys2Proof/Laws/Frame.lean ====
section
/-! SUPPORT. The frame of every shared operation, and how frames compose: a meaning is a chain of
operations, so its frame is the chain of theirs. -/

namespace Sys2Proof.Safety

open Sys2Proof.Machine

/-! ## Composing frames -/

theorem Frame.refl (s : State) : Frame [] s s := by
  intro p _
  cases p <;> rfl

theorem Frame.trans {xs ys : List Part} {s t u : State} (h : Frame xs s t) (k : Frame ys t u) :
    Frame (xs ++ ys) s u := by
  intro p hp
  rw [List.mem_append, not_or] at hp
  have hs := h p hp.1
  have ku := k p hp.2
  cases p <;> exact ku.trans hs

theorem Frame.mono {xs ys : List Part} {s t : State} (h : Frame xs s t) (sub : xs ⊆ ys) :
    Frame ys s t :=
  fun p hp => h p fun hx => hp (sub hx)

/-- A part that reads the same after all can be taken off the list. -/
theorem Frame.drop {x : Part} {xs : List Part} {s t : State} (h : Frame (x :: xs) s t)
    (same : x.Same s t) : Frame xs s t := by
  intro p hp
  by_cases hx : p = x
  · exact hx ▸ same
  · exact h p (by simp [hx, hp])

/-- The frame of an update of F, from its flags and its unused bits. -/
theorem Frame.ofF {changed : List Part} (s : State) (f : Byte)
    (flags : ∀ g, Part.flag g ∉ changed → getFlag f g = s.flag g)
    (unused : f &&& 0x2A#8 = s.f &&& 0x2A#8) : Frame changed s (s.setF f) := by
  intro p hp
  cases p with
  | flag g => exact flags g hp
  | unusedBits => exact unused
  | _ => rfl

/-! ## The basic updates -/

theorem setPc_frame (s : State) (pc : Word) : Frame [] s (s.setPc pc) := by
  intro p _; cases p <;> rfl

theorem setSp_frame (s : State) (sp : Word) : Frame [.sp] s (s.setSp sp) := by
  intro p hp; cases p <;> first | rfl | simp at hp

theorem setIe_frame (s : State) (ie : Bool) : Frame [.ie] s (s.setIe ie) := by
  intro p hp; cases p <;> first | rfl | simp at hp

theorem setHalted_frame (s : State) (halted : Bool) :
    Frame [.halted] s (s.setHalted halted) := by
  intro p hp; cases p <;> first | rfl | simp at hp

theorem countIoRead_frame (s : State) : Frame [.inputs] s s.countIoRead := by
  intro p hp; cases p <;> first | rfl | simp at hp

theorem emitIoWrite_frame (s : State) (port value : Byte) :
    Frame [.outputs] s (s.emitIoWrite port value) := by
  intro p hp; cases p <;> first | rfl | simp at hp

theorem setReg_frame (s : State) (r : Reg) (v : Byte) : Frame [.reg r] s (s.setReg r v) := by
  intro p hp
  cases p with
  | reg q => simp_all [Part.Same]
  | _ => rfl

theorem writeMem_frame (s : State) (a : Word) (v : Byte) : Frame [.cell a] s (s.writeMem a v) := by
  intro p hp
  cases p with
  | cell b => simp_all [Part.Same]
  | _ => rfl

theorem setFlag_frame (s : State) (g : Flag) (v : Bool) :
    Frame [.flag g] s (s.setF (setFlag s.f g v)) :=
  Frame.ofF s _ (fun h hh => by simp_all [State.flag]) (by simp)

/-! ## The shared operations -/

theorem setPairOf_frame (s : State) (hi lo : Reg) (v : Word) :
    Frame [.reg hi, .reg lo] s (s.setPairOf hi lo v) :=
  (setReg_frame s hi _).trans (setReg_frame _ lo _)

theorem writePair_frame (s : State) (pair : RegPair) (v : Word) :
    Frame (pairParts pair) s (s.writePair pair v) := by
  cases pair
  all_goals first | exact setPairOf_frame s _ _ v | exact setSp_frame s v

theorem writeStackPair_frame (s : State) (pair : StackPair) (v : Word) :
    Frame [.reg (stackPairRegs pair).1, .reg (stackPairRegs pair).2] s (s.writeStackPair pair v) := by
  cases pair <;> exact setPairOf_frame s _ _ v

theorem push16_frame (s : State) (v : Word) :
    Frame [.sp, .cell (s.sp - 1), .cell (s.sp - 2)] s (s.push16 v) :=
  (((writeMem_frame s _ _).trans (writeMem_frame _ _ _)).trans (setSp_frame _ _)).mono (by simp)

theorem popped_frame (s : State) : Frame [.sp] s s.popped := setSp_frame s _

theorem compareA_frame (s : State) (b : Byte) (c : Bool) : Frame allFlags s (s.compareA b c) :=
  Frame.ofF s _ (fun g hg => by cases g <;> simp [allFlags] at hg) (by simp [subFlags])

theorem subFromA_frame (s : State) (b : Byte) (c : Bool) :
    Frame (.reg .a :: allFlags) s (s.subFromA b c) :=
  ((compareA_frame s b c).trans (setReg_frame _ .a _)).mono (by simp [allFlags])

theorem addToA_frame (s : State) (b : Byte) (c : Bool) :
    Frame (.reg .a :: allFlags) s (s.addToA b c) :=
  (setReg_frame s .a _).trans
    (Frame.ofF _ _ (fun g hg => by cases g <;> simp at hg) (by simp [addFlags]))

theorem logicToA_frame (s : State) (res : Byte) :
    Frame (.reg .a :: allFlags) s (s.logicToA res) :=
  (setReg_frame s .a _).trans
    (Frame.ofF _ _ (fun g hg => by cases g <;> simp at hg) (by simp [logicFlags]))

theorem rotateA_frame (s : State) (res : Byte) (cy : Bool) :
    Frame [.reg .a, .flag .cy] s (s.rotateA res cy) :=
  (setReg_frame s .a res).trans (setFlag_frame _ .cy cy)

theorem incFlags_frame (s : State) (v : Byte) :
    Frame flagsLessCy s (s.setF (incFlags s.f v)) :=
  Frame.ofF s _
    (fun g hg => by cases g <;> simp_all [flagsLessCy, incFlags, getFlag_setSZP, State.flag])
    (by simp [incFlags])

theorem decFlags_frame (s : State) (v : Byte) :
    Frame flagsLessCy s (s.setF (decFlags s.f v)) :=
  Frame.ofF s _
    (fun g hg => by cases g <;> simp_all [flagsLessCy, decFlags, getFlag_setSZP, State.flag])
    (by simp [decFlags])

theorem daaFlags_frame (s : State) (a : Byte) : Frame allFlags s (s.setF (daaFlags s.f a)) :=
  Frame.ofF s _ (fun g hg => by cases g <;> simp [allFlags] at hg) (by simp [daaFlags])

end Sys2Proof.Safety
end

