-- ==== Sys2Proof/Laws/Ops.lean ====
section
/-! SUPPORT. What each shared operation computes, in the terms of the claims. -/

namespace Sys2Proof.Machine

open Sys2Proof.Safety

/-! ## Operands -/

theorem State.readOperand_eq (s : State) (src : Operand) :
    s.readOperand src = secondOperand s src := by
  cases src with
  | reg r => rfl
  | m => simp [State.readOperand, secondOperand, State.hl_eq_hlOf]

theorem State.readPair_eq (s : State) (pair : RegPair) : s.readPair pair = pairValue s pair := by
  cases pair <;> first | exact wordOf_eq_word16 _ _ | rfl

theorem State.readStackPair_eq (s : State) (pair : StackPair) :
    s.readStackPair pair = stackPairValue s pair := by
  cases pair <;> exact wordOf_eq_word16 _ _

theorem State.indexAddress_eq (s : State) (pair : IndexPair) :
    s.indexAddress pair = indexPairValue s pair := by
  cases pair <;> exact wordOf_eq_word16 _ _

/-- A pair reads what was last written to it. -/
theorem State.readPair_writePair (s : State) (pair : RegPair) (v : Word) :
    (s.writePair pair v).readPair pair = v := by
  cases pair <;> simp [State.writePair, State.readPair, State.pairOf]

theorem State.readStackPair_writeStackPair (s : State) (pair : StackPair) (v : Word) :
    (s.writeStackPair pair v).readStackPair pair = v := by
  cases pair <;> simp [State.writeStackPair, State.readStackPair, State.pairOf]

@[simp] theorem State.writePair_pc (s : State) (pair : RegPair) (v : Word) :
    (s.writePair pair v).pc = s.pc := by
  cases pair <;> rfl

@[simp] theorem State.writeStackPair_pc (s : State) (pair : StackPair) (v : Word) :
    (s.writeStackPair pair v).pc = s.pc := by
  cases pair <;> rfl

@[simp] theorem State.writePair_mem (s : State) (pair : RegPair) (v : Word) :
    (s.writePair pair v).mem = s.mem := by
  cases pair <;> rfl

@[simp] theorem State.writeStackPair_mem (s : State) (pair : StackPair) (v : Word) :
    (s.writeStackPair pair v).mem = s.mem := by
  cases pair <;> rfl

/-! ## Arithmetic and logic -/

/-- S, Z and P of any flag byte whose S, Z and P were set from `res`. -/
theorem signZeroParity_of (t : State) (res : Byte) (hs : t.flag .s = res.getLsbD 7)
    (hz : t.flag .z = (res == 0)) (hp : t.flag .p = parityEven res) :
    SignZeroParity t res.toNat :=
  ⟨hs.trans (getLsbD_seven res), hz.trans (beq_zero_eq res), hp.trans (parityEven_eq_onesIn res)⟩

theorem State.addToA_spec (s : State) (b : Byte) (c : Bool) :
    AddedToA s b c.toNat (s.addToA b c) := by
  refine ⟨by simp [State.addToA, addResult_toNat], ?_, ?_, ?_⟩
  · rw [← addResult_toNat]
    apply signZeroParity_of <;> simp [State.addToA, addFlags, getFlag_setCarries, getFlag_setSZP]
  · simp [State.addToA, addFlags, getFlag_setCarries, addCy]
  · simp [State.addToA, addFlags, getFlag_setCarries, addAc, lowNibble]

theorem State.compareA_spec (s : State) (b : Byte) (c : Bool) :
    BorrowFlags s b c.toNat (s.compareA b c) := by
  refine ⟨?_, ?_, ?_⟩
  · rw [← subResult_toNat, Int.toNat_natCast]
    apply signZeroParity_of <;> simp [State.compareA, subFlags, getFlag_setCarries, getFlag_setSZP]
  · simp [State.compareA, subFlags, getFlag_setCarries, subCy]
  · simp [State.compareA, subFlags, getFlag_setCarries, subAc, lowNibble]
    rfl

theorem State.subFromA_spec (s : State) (b : Byte) (c : Bool) :
    SubtractedFromA s b c.toNat (s.subFromA b c) :=
  ⟨by simp [State.subFromA, subResult_toNat], s.compareA_spec b c⟩

theorem State.logicToA_spec (s : State) (res : Byte) : LogicResult res (s.logicToA res) := by
  refine ⟨by simp [State.logicToA], ?_, ?_, ?_⟩
  · apply signZeroParity_of <;> simp [State.logicToA, logicFlags, getFlag_setCarries, getFlag_setSZP]
  · simp [State.logicToA, logicFlags, getFlag_setCarries]
  · simp [State.logicToA, logicFlags, getFlag_setCarries]

@[simp] theorem State.addToA_pc (s : State) (b : Byte) (c : Bool) : (s.addToA b c).pc = s.pc := rfl

@[simp] theorem State.addToA_mem (s : State) (b : Byte) (c : Bool) : (s.addToA b c).mem = s.mem :=
  rfl

@[simp] theorem State.compareA_pc (s : State) (b : Byte) (c : Bool) :
    (s.compareA b c).pc = s.pc := rfl

@[simp] theorem State.compareA_mem (s : State) (b : Byte) (c : Bool) :
    (s.compareA b c).mem = s.mem := rfl

@[simp] theorem State.subFromA_pc (s : State) (b : Byte) (c : Bool) :
    (s.subFromA b c).pc = s.pc := rfl

@[simp] theorem State.subFromA_mem (s : State) (b : Byte) (c : Bool) :
    (s.subFromA b c).mem = s.mem := rfl

@[simp] theorem State.logicToA_pc (s : State) (res : Byte) : (s.logicToA res).pc = s.pc := rfl

@[simp] theorem State.logicToA_mem (s : State) (res : Byte) : (s.logicToA res).mem = s.mem := rfl

@[simp] theorem State.rotateA_pc (s : State) (res : Byte) (cy : Bool) :
    (s.rotateA res cy).pc = s.pc := rfl

@[simp] theorem State.rotateA_mem (s : State) (res : Byte) (cy : Bool) :
    (s.rotateA res cy).mem = s.mem := rfl

/-! ## Conditions and the stack -/

theorem State.condHolds_iff (s : State) (cond : Cond) : s.condHolds cond = true ↔ Holds s cond := by
  cases cond <;> simp [State.condHolds, Holds, conditionTest]

/-- The word just pushed is the word at the top of the stack, also when SP wraps. -/
theorem State.topOfStack_push16 (s : State) (v : Word) : (s.push16 v).topOfStack = v := by
  have h1 : s.sp - 2#16 + 1#16 = s.sp - 1#16 := by bv_omega
  have h2 : s.sp - 1#16 ≠ s.sp - 2#16 := by bv_omega
  simp [State.topOfStack, State.push16_readMem, h1, h2]

/-- The answer of a conditional transfer, by its condition. -/
theorem State.jumpIf_cases (s : State) (taken : Bool) (addr : Word) :
    (taken = true ∧ s.jumpIf taken addr = s.jumpTo addr) ∨
      (taken = false ∧ s.jumpIf taken addr = s.advance 3) := by
  cases taken <;> simp [State.jumpIf]

theorem State.callIf_cases (s : State) (taken : Bool) (addr : Word) :
    (taken = true ∧ s.callIf taken addr = s.callTo 3 addr) ∨
      (taken = false ∧ s.callIf taken addr = s.advance 3) := by
  cases taken <;> simp [State.callIf]

theorem State.returnIf_cases (s : State) (taken : Bool) :
    (taken = true ∧ s.returnIf taken = s.returnToCaller) ∨
      (taken = false ∧ s.returnIf taken = s.advance 1) := by
  cases taken <;> simp [State.returnIf]

/-! ## Environment operations -/

/-- `load` writes memory and nothing else. -/
theorem State.load_eq (s : State) (bytes : List Byte) (origin : Word) :
    s.load bytes origin = { s with mem := (s.load bytes origin).mem } := by
  induction bytes generalizing s origin with
  | nil => rfl
  | cons v rest ih => exact ih (s.writeMem origin v) (origin + 1)

theorem State.load_wf {s : State} (h : s.mem.wf) (bytes : List Byte) (origin : Word) :
    (s.load bytes origin).mem.wf := by
  induction bytes generalizing s origin with
  | nil => exact h
  | cons v rest ih => exact ih (State.writeMem_wf h origin v) (origin + 1)

end Sys2Proof.Machine
end

