-- ==== Sys2Proof/Laws/PerInstr.lean ====
section
/-! SUPPORT. Facts about every instruction as syntax, one lemma per constructor of `Instr`. -/

namespace Sys2Proof.Laws.EncodedLength

/-- The opcode byte of an instruction gives the length of its encoding, with no other input (spec
30_encoding.md rules R83, R84; lengths by D21). -/
def Statement (i : Instr) : Prop :=
  i.wellFormed = true → ∃ op operands, encode i = op :: operands ∧
    (encode i).length = opcodeLength op

/-- The statement from the encoding written as an opcode and its operand bytes. -/
theorem of_encode {i : Instr} {op : Byte} {operands : List Byte} (h : encode i = op :: operands)
    (length : opcodeLength op = operands.length + 1) : Statement i :=
  fun _ => ⟨op, operands, h, by rw [h, length, List.length_cons]⟩

theorem movRR (dst src : Reg) : Statement (.movRR dst src) := by
  cases dst <;> cases src <;> exact of_encode rfl rfl

theorem movRM (dst : Reg) : Statement (.movRM dst) := by
  cases dst <;> exact of_encode rfl rfl

theorem movMR (src : Reg) : Statement (.movMR src) := by
  cases src <;> exact of_encode rfl rfl

theorem mviR (dst : Reg) (imm : Byte) : Statement (.mviR dst imm) := by
  cases dst <;> exact of_encode rfl rfl

theorem mviM (imm : Byte) : Statement (.mviM imm) := of_encode rfl rfl

theorem lxi (pair : RegPair) (imm16 : Word) : Statement (.lxi pair imm16) := by
  cases pair <;> exact of_encode rfl rfl

theorem lda (addr : Word) : Statement (.lda addr) := of_encode rfl rfl

theorem sta (addr : Word) : Statement (.sta addr) := of_encode rfl rfl

theorem ldax (pair : IndexPair) : Statement (.ldax pair) := by
  cases pair <;> exact of_encode rfl rfl

theorem stax (pair : IndexPair) : Statement (.stax pair) := by
  cases pair <;> exact of_encode rfl rfl

theorem lhld (addr : Word) : Statement (.lhld addr) := of_encode rfl rfl

theorem shld (addr : Word) : Statement (.shld addr) := of_encode rfl rfl

theorem xchg : Statement .xchg := of_encode rfl rfl

theorem add (src : Operand) : Statement (.add src) := by
  rcases src with (_ | _ | _ | _ | _ | _ | _) | _ <;> exact of_encode rfl rfl

theorem adc (src : Operand) : Statement (.adc src) := by
  rcases src with (_ | _ | _ | _ | _ | _ | _) | _ <;> exact of_encode rfl rfl

theorem sub (src : Operand) : Statement (.sub src) := by
  rcases src with (_ | _ | _ | _ | _ | _ | _) | _ <;> exact of_encode rfl rfl

theorem sbb (src : Operand) : Statement (.sbb src) := by
  rcases src with (_ | _ | _ | _ | _ | _ | _) | _ <;> exact of_encode rfl rfl

theorem ana (src : Operand) : Statement (.ana src) := by
  rcases src with (_ | _ | _ | _ | _ | _ | _) | _ <;> exact of_encode rfl rfl

theorem xra (src : Operand) : Statement (.xra src) := by
  rcases src with (_ | _ | _ | _ | _ | _ | _) | _ <;> exact of_encode rfl rfl

theorem ora (src : Operand) : Statement (.ora src) := by
  rcases src with (_ | _ | _ | _ | _ | _ | _) | _ <;> exact of_encode rfl rfl

theorem cmp (src : Operand) : Statement (.cmp src) := by
  rcases src with (_ | _ | _ | _ | _ | _ | _) | _ <;> exact of_encode rfl rfl

theorem adi (imm : Byte) : Statement (.adi imm) := of_encode rfl rfl

theorem aci (imm : Byte) : Statement (.aci imm) := of_encode rfl rfl

theorem sui (imm : Byte) : Statement (.sui imm) := of_encode rfl rfl

theorem sbi (imm : Byte) : Statement (.sbi imm) := of_encode rfl rfl

theorem ani (imm : Byte) : Statement (.ani imm) := of_encode rfl rfl

theorem xri (imm : Byte) : Statement (.xri imm) := of_encode rfl rfl

theorem ori (imm : Byte) : Statement (.ori imm) := of_encode rfl rfl

theorem cpi (imm : Byte) : Statement (.cpi imm) := of_encode rfl rfl

theorem inrR (dst : Reg) : Statement (.inrR dst) := by
  cases dst <;> exact of_encode rfl rfl

theorem inrM : Statement .inrM := of_encode rfl rfl

theorem dcrR (dst : Reg) : Statement (.dcrR dst) := by
  cases dst <;> exact of_encode rfl rfl

theorem dcrM : Statement .dcrM := of_encode rfl rfl

theorem inx (pair : RegPair) : Statement (.inx pair) := by
  cases pair <;> exact of_encode rfl rfl

theorem dcx (pair : RegPair) : Statement (.dcx pair) := by
  cases pair <;> exact of_encode rfl rfl

theorem dad (pair : RegPair) : Statement (.dad pair) := by
  cases pair <;> exact of_encode rfl rfl

theorem daa : Statement .daa := of_encode rfl rfl

theorem rlc : Statement .rlc := of_encode rfl rfl

theorem rrc : Statement .rrc := of_encode rfl rfl

theorem ral : Statement .ral := of_encode rfl rfl

theorem rar : Statement .rar := of_encode rfl rfl

theorem cma : Statement .cma := of_encode rfl rfl

theorem stc : Statement .stc := of_encode rfl rfl

theorem cmc : Statement .cmc := of_encode rfl rfl

theorem jmp (addr : Word) : Statement (.jmp addr) := of_encode rfl rfl

theorem jnz (addr : Word) : Statement (.jnz addr) := of_encode rfl rfl

theorem jz (addr : Word) : Statement (.jz addr) := of_encode rfl rfl

theorem jnc (addr : Word) : Statement (.jnc addr) := of_encode rfl rfl

theorem jc (addr : Word) : Statement (.jc addr) := of_encode rfl rfl

theorem jpo (addr : Word) : Statement (.jpo addr) := of_encode rfl rfl

theorem jpe (addr : Word) : Statement (.jpe addr) := of_encode rfl rfl

theorem jp (addr : Word) : Statement (.jp addr) := of_encode rfl rfl

theorem jm (addr : Word) : Statement (.jm addr) := of_encode rfl rfl

theorem call (addr : Word) : Statement (.call addr) := of_encode rfl rfl

theorem cnz (addr : Word) : Statement (.cnz addr) := of_encode rfl rfl

theorem cz (addr : Word) : Statement (.cz addr) := of_encode rfl rfl

theorem cnc (addr : Word) : Statement (.cnc addr) := of_encode rfl rfl

theorem cc (addr : Word) : Statement (.cc addr) := of_encode rfl rfl

theorem cpo (addr : Word) : Statement (.cpo addr) := of_encode rfl rfl

theorem cpe (addr : Word) : Statement (.cpe addr) := of_encode rfl rfl

theorem cp (addr : Word) : Statement (.cp addr) := of_encode rfl rfl

theorem cm (addr : Word) : Statement (.cm addr) := of_encode rfl rfl

theorem ret : Statement .ret := of_encode rfl rfl

theorem rnz : Statement .rnz := of_encode rfl rfl

theorem rz : Statement .rz := of_encode rfl rfl

theorem rnc : Statement .rnc := of_encode rfl rfl

theorem rc : Statement .rc := of_encode rfl rfl

theorem rpo : Statement .rpo := of_encode rfl rfl

theorem rpe : Statement .rpe := of_encode rfl rfl

theorem rp : Statement .rp := of_encode rfl rfl

theorem rm : Statement .rm := of_encode rfl rfl

theorem rst (n : BitVec 3) : Statement (.rst n) :=
  of_encode rfl (by revert n; decide)

theorem pchl : Statement .pchl := of_encode rfl rfl

theorem sphl : Statement .sphl := of_encode rfl rfl

theorem push (pair : StackPair) : Statement (.push pair) := by
  cases pair <;> exact of_encode rfl rfl

theorem pushPsw : Statement .pushPsw := of_encode rfl rfl

theorem pop (pair : StackPair) : Statement (.pop pair) := by
  cases pair <;> exact of_encode rfl rfl

theorem popPsw : Statement .popPsw := of_encode rfl rfl

theorem xthl : Statement .xthl := of_encode rfl rfl

theorem inPort (port : Byte) : Statement (.inPort port) := of_encode rfl rfl

theorem outPort (port : Byte) : Statement (.outPort port) := of_encode rfl rfl

theorem ei : Statement .ei := of_encode rfl rfl

theorem di : Statement .di := of_encode rfl rfl

theorem rim : Statement .rim := of_encode rfl rfl

theorem sim : Statement .sim := of_encode rfl rfl

theorem hlt : Statement .hlt := of_encode rfl rfl

theorem unimplemented (byte : Byte) : Statement (.unimplemented byte) := by
  intro h
  refine ⟨byte, [], rfl, ?_⟩
  simp only [Instr.wellFormed, unimplementedBytes, List.contains_iff_mem, List.mem_cons,
    List.not_mem_nil, or_false] at h
  rcases h with rfl | rfl | rfl | rfl | rfl | rfl | rfl | rfl | rfl | rfl | rfl <;> rfl

end Sys2Proof.Laws.EncodedLength
end

