-- ==== Sys2Proof/Laws/Step.lean ====
section
/-! SUPPORT. What a step can do, said once. -/

namespace Sys2Proof.Machine

theorem step_of_halted {s : State} (h : s.halted = true) : step s = .next s := by
  simp [step, h]

theorem step_of_running {s : State} (h : s.halted = false) : step s = exec s.fetchInstr s := by
  simp [step, h]

/-- A step that answers `next t` kept a halted core as it was, or ran the instruction fetched. -/
theorem step_cases {s t : State} (h : step s = .next t) :
    (s.halted = true ∧ t = s) ∨ (s.halted = false ∧ exec s.fetchInstr s = .next t) := by
  cases hh : s.halted with
  | true =>
    rw [step_of_halted hh] at h
    cases h
    exact .inl ⟨rfl, rfl⟩
  | false => exact .inr ⟨rfl, step_of_running hh ▸ h⟩

end Sys2Proof.Machine
end

