-- ==== Sys2Proof/Tests/Slice0.lean ====
section
/-! SUPPORT. The model's own tests. Expected values are those of spec/95_test_vectors.md (its number is given at
each test) or of the encoding rules of spec/30_encoding.md; a test with neither says where it comes from.
Then one witness for each obligation that has hypotheses. -/

namespace Sys2Proof.Tests

open Sys2Proof Sys2Proof.Machine Sys2Proof.Safety

/-! ## WellFormed -/

theorem test_wellFormed_refuses_defined_bytes :
    (Instr.unimplemented 0x76).wellFormed = false ∧ (Instr.unimplemented 0x01).wellFormed = false ∧
      (Instr.unimplemented 0xFF).wellFormed = false := by decide

theorem test_wellFormed_accepts_the_eleven :
    unimplementedBytes.length = 11 ∧
      unimplementedBytes.all (fun b => (Instr.unimplemented b).wellFormed) = true := by decide

/-! ## Decoding: a word for every constructor, bit by bit from rules R85 to R94 -/

theorem test_decode_data_transfer :
    decode 0b01000111 0 0 = .movRR .b .a ∧ decode 0b01100110 0 0 = .movRM .h ∧
    decode 0b01110101 0 0 = .movMR .l ∧ decode 0b00001110 0x7F 0 = .mviR .c 0x7F ∧
    decode 0b00110110 0xAB 0 = .mviM 0xAB ∧ decode 0b00110001 0x00 0xFF = .lxi .sp 0xFF00 ∧
    decode 0b00111010 0x34 0x12 = .lda 0x1234 ∧ decode 0b00110010 0x34 0x12 = .sta 0x1234 ∧
    decode 0b00001010 0 0 = .ldax .bc ∧ decode 0b00010010 0 0 = .stax .de ∧
    decode 0b00101010 0x34 0x12 = .lhld 0x1234 ∧ decode 0b00100010 0x34 0x12 = .shld 0x1234 ∧
    decode 0b11101011 0 0 = .xchg := by decide

theorem test_decode_arithmetic_logic :
    decode 0b10000000 0 0 = .add (.reg .b) ∧ decode 0b10001110 0 0 = .adc .m ∧
    decode 0b10010111 0 0 = .sub (.reg .a) ∧ decode 0b10011001 0 0 = .sbb (.reg .c) ∧
    decode 0b10100010 0 0 = .ana (.reg .d) ∧ decode 0b10101011 0 0 = .xra (.reg .e) ∧
    decode 0b10110100 0 0 = .ora (.reg .h) ∧ decode 0b10111101 0 0 = .cmp (.reg .l) ∧
    decode 0b11000110 0x42 0 = .adi 0x42 ∧ decode 0b11001110 0x42 0 = .aci 0x42 ∧
    decode 0b11010110 0x42 0 = .sui 0x42 ∧ decode 0b11011110 0x42 0 = .sbi 0x42 ∧
    decode 0b11100110 0x42 0 = .ani 0x42 ∧ decode 0b11101110 0x42 0 = .xri 0x42 ∧
    decode 0b11110110 0x42 0 = .ori 0x42 ∧ decode 0b11111110 0x42 0 = .cpi 0x42 := by decide

theorem test_decode_incdec_rotate :
    decode 0b00111100 0 0 = .inrR .a ∧ decode 0b00110100 0 0 = .inrM ∧
    decode 0b00000101 0 0 = .dcrR .b ∧ decode 0b00110101 0 0 = .dcrM ∧
    decode 0b00110011 0 0 = .inx .sp ∧ decode 0b00011011 0 0 = .dcx .de ∧
    decode 0b00101001 0 0 = .dad .hl ∧ decode 0b00100111 0 0 = .daa ∧
    decode 0b00000111 0 0 = .rlc ∧ decode 0b00001111 0 0 = .rrc ∧ decode 0b00010111 0 0 = .ral ∧
    decode 0b00011111 0 0 = .rar ∧ decode 0b00101111 0 0 = .cma ∧ decode 0b00110111 0 0 = .stc ∧
    decode 0b00111111 0 0 = .cmc := by decide

theorem test_decode_jumps_and_calls :
    decode 0b11000011 0x34 0x12 = .jmp 0x1234 ∧ decode 0b11000010 0x34 0x12 = .jnz 0x1234 ∧
    decode 0b11001010 0x34 0x12 = .jz 0x1234 ∧ decode 0b11010010 0x34 0x12 = .jnc 0x1234 ∧
    decode 0b11011010 0x34 0x12 = .jc 0x1234 ∧ decode 0b11100010 0x34 0x12 = .jpo 0x1234 ∧
    decode 0b11101010 0x34 0x12 = .jpe 0x1234 ∧ decode 0b11110010 0x34 0x12 = .jp 0x1234 ∧
    decode 0b11111010 0x34 0x12 = .jm 0x1234 ∧ decode 0b11001101 0x34 0x12 = .call 0x1234 ∧
    decode 0b11000100 0x34 0x12 = .cnz 0x1234 ∧ decode 0b11001100 0x34 0x12 = .cz 0x1234 ∧
    decode 0b11010100 0x34 0x12 = .cnc 0x1234 ∧ decode 0b11011100 0x34 0x12 = .cc 0x1234 ∧
    decode 0b11100100 0x34 0x12 = .cpo 0x1234 ∧ decode 0b11101100 0x34 0x12 = .cpe 0x1234 ∧
    decode 0b11110100 0x34 0x12 = .cp 0x1234 ∧ decode 0b11111100 0x34 0x12 = .cm 0x1234 := by decide

theorem test_decode_returns_and_transfers :
    decode 0b11001001 0 0 = .ret ∧ decode 0b11000000 0 0 = .rnz ∧ decode 0b11001000 0 0 = .rz ∧
    decode 0b11010000 0 0 = .rnc ∧ decode 0b11011000 0 0 = .rc ∧ decode 0b11100000 0 0 = .rpo ∧
    decode 0b11101000 0 0 = .rpe ∧ decode 0b11110000 0 0 = .rp ∧ decode 0b11111000 0 0 = .rm ∧
    decode 0b11110111 0 0 = .rst 6 ∧ decode 0b11101001 0 0 = .pchl ∧
    decode 0b11111001 0 0 = .sphl := by decide

theorem test_decode_stack_io_control :
    decode 0b11010101 0 0 = .push .de ∧ decode 0b11110101 0 0 = .pushPsw ∧
    decode 0b11000001 0 0 = .pop .bc ∧ decode 0b11110001 0 0 = .popPsw ∧
    decode 0b11100011 0 0 = .xthl ∧ decode 0b11011011 0x10 0 = .inPort 0x10 ∧
    decode 0b11010011 0x01 0 = .outPort 0x01 ∧ decode 0b11111011 0 0 = .ei ∧
    decode 0b11110011 0 0 = .di ∧ decode 0b00100000 0 0 = .rim ∧ decode 0b00110000 0 0 = .sim ∧
    decode 0b01110110 0 0 = .hlt ∧ decode 0b11001011 0 0 = .unimplemented 0xCB := by decide

/-- Rule R96: 245 of the 256 bytes are defined. -/
theorem test_decode_counts :
    ((List.range 256).filter fun n => decide
      (decode (BitVec.ofNat 8 n) 0 0 = .unimplemented (BitVec.ofNat 8 n))).length = 11 := by
  decide

theorem test_decodeStream_missing_operand :
    decodeStream [] = .error .noOpcode ∧ decodeStream [0x3E] = .error (.operandMissing 0x3E) ∧
      decodeStream [0xC3, 0x34] = .error (.operandMissing 0xC3) := by
  refine ⟨?_, ?_, ?_⟩ <;> rfl

/-! ## The host's two hooks -/

/-- JMP's row has 8 bits, its operand bytes none; MVI's row as 16 bits carries its immediate above. -/
theorem test_decodeTableWord :
    decodeTableWord 8 0xC3 = some (.jmp 0) ∧ decodeTableWord 16 0x4206 = some (.mviR .b 0x42) ∧
      decodeTableWord 24 0x1234CD = some (.call 0x1234) := by decide

theorem test_withFetchWord :
    (State.reset.withFetchWord 24 0x1234CD).fetchInstr = .call 0x1234 ∧
      ((State.reset.setHalted true).withFetchWord 8 0x3C).halted = false := by decide

/-! ## One step at a time -/

/-- The reset state with some registers, F, memory cells, PC and SP replaced and bytes loaded at PC, as the
vectors of spec/95_test_vectors.md start. -/
def start (regs : List (Reg × Byte)) (f : Byte) (bytes : List Byte)
    (cells : List (Word × Byte) := []) (pc sp : Word := 0) : State :=
  let s := regs.foldl (fun s r => s.setReg r.1 r.2) State.reset
  let s := cells.foldl (fun s c => s.writeMem c.1 c.2) (((s.setF f).setPc pc).setSp sp)
  s.load bytes pc

/-- What a function of the state gives after one step, if the step answers a next state. -/
def after {α : Type} (s : State) (view : State → α) : Option α :=
  match step s with
  | .next t => some (view t)
  | .fault _ => none
  | .refused _ => none

/-- A, F and PC. -/
def afp (t : State) : Byte × Byte × Word := (t.getReg .a, t.f, t.pc)

/-- One register, F and PC. -/
def rfp (r : Reg) (t : State) : Byte × Byte × Word := (t.getReg r, t.f, t.pc)

/-- H, L, F and SP. -/
def hlfs (t : State) : Byte × Byte × Byte × Word := (t.getReg .h, t.getReg .l, t.f, t.sp)

/-- PC, SP and two memory cells. -/
def stack (a b : Word) (t : State) : Word × Word × Byte × Byte :=
  (t.pc, t.sp, t.readMem a, t.readMem b)

/-! ### Data transfer (vectors T1 to T24) -/

/-- T1. -/
theorem test_mov_b_a : after (start [(.a, 0x5A)] 0xD5 [0x47]) (rfp .b) = some (0x5A, 0xD5, 1) := by
  decide

/-- T4: the address is the old HL. -/
theorem test_mov_h_m :
    after (start [(.h, 0x20), (.l, 0x10)] 0 [0x66] [(0x2010, 0x99)]) (rfp .h) =
      some (0x99, 0, 1) := by decide

/-- T6. -/
theorem test_mov_m_l :
    after (start [(.h, 0x20), (.l, 0x10)] 0 [0x75]) (·.readMem 0x2010) = some 0x10 := by decide

/-- T7. -/
theorem test_mvi_c : after (start [] 0 [0x0E, 0x7F]) (rfp .c) = some (0x7F, 0, 2) := by decide

/-- T9: the instruction overwrites its own opcode byte. -/
theorem test_mvi_m_own_byte :
    after (start [] 0 [0x36, 0xAB]) (stack 0 1) = some (2, 0, 0xAB, 0xAB) := by decide

/-- T12. -/
theorem test_lxi_hl : after (start [] 0 [0x21, 0xCD, 0xAB]) hlfs = some (0xAB, 0xCD, 0, 0) := by
  decide

/-- T11. -/
theorem test_lxi_sp : after (start [] 0 [0x31, 0x00, 0xFF]) hlfs = some (0, 0, 0, 0xFF00) := by
  decide

/-- T13. -/
theorem test_lda :
    after (start [] 0 [0x3A, 0x00, 0x20] [(0x2000, 0x77)]) afp = some (0x77, 0, 3) := by decide

/-- T15: the address was formed before the store to its own third byte. -/
theorem test_sta_own_byte :
    after (start [(.a, 0x42)] 0 [0x32, 0x02, 0x00]) (stack 2 1) = some (3, 0, 0x42, 0x02) := by
  decide

/-- T17. -/
theorem test_ldax_de :
    after (start [(.d, 0x20), (.e, 0x06)] 0 [0x1A] [(0x2006, 0xDD)]) afp = some (0xDD, 0, 1) := by
  decide

/-- T18. -/
theorem test_stax_bc :
    after (start [(.a, 0x11), (.b, 0x20), (.c, 0x05)] 0 [0x02]) (·.readMem 0x2005) = some 0x11 := by
  decide

/-- T21: the second byte is read at 0x0000. -/
theorem test_lhld_wraps :
    after (start [(.h, 0x55)] 0 [0x2A, 0xFF, 0xFF] [(0xFFFF, 0x34)] 0x0100) hlfs =
      some (0x00, 0x34, 0, 0) := by decide

/-- T23. -/
theorem test_shld_wraps :
    after (start [(.h, 0xAB), (.l, 0xCD)] 0 [0x22, 0xFF, 0xFF] [] 0x0100) (stack 0xFFFF 0) =
      some (0x0103, 0, 0xCD, 0xAB) := by decide

/-- T24. -/
theorem test_xchg :
    after (start [(.d, 0x11), (.e, 0x22), (.h, 0x33), (.l, 0x44)] 0 [0xEB])
        (fun t => (t.getReg .d, t.getReg .e, t.getReg .h, t.getReg .l)) =
      some (0x33, 0x44, 0x11, 0x22) := by decide

/-! ### Arithmetic and logic (vectors A1 to A22, I1 to I10) -/

/-- A1, the source's own example S3. -/
theorem test_add_b : after (start [(.a, 0xFF), (.b, 0x01)] 0 [0x80]) afp = some (0, 0x55, 1) := by
  decide

/-- A21: bits 5, 3 and 1 are kept. -/
theorem test_add_keeps_unused_bits : after (start [] 0x2A [0x80]) afp = some (0, 0x6E, 1) := by
  decide

/-- A6: AC from the carry in. -/
theorem test_adc_b : after (start [(.a, 0x0F)] 0x01 [0x88]) afp = some (0x10, 0x10, 1) := by decide

/-- A9. -/
theorem test_sub_b : after (start [(.b, 0x01)] 0 [0x90]) afp = some (0xFF, 0x95, 1) := by decide

/-- A11: zero and borrow together. -/
theorem test_sbb_b : after (start [(.b, 0xFF)] 0x01 [0x98]) afp = some (0, 0x55, 1) := by decide

/-- A12. -/
theorem test_sbb_half_borrow :
    after (start [(.a, 0x10), (.b, 0x0F)] 0x01 [0x98]) afp = some (0, 0x54, 1) := by decide

/-- A13. -/
theorem test_ana_c : after (start [(.a, 0xFC), (.c, 0x0F)] 0x11 [0xA1]) afp = some (0x0C, 0x04, 1) := by
  decide

/-- A15. -/
theorem test_xra_b : after (start [(.a, 0xFF), (.b, 0x0F)] 0 [0xA8]) afp = some (0xF0, 0x84, 1) := by
  decide

/-- A16. -/
theorem test_ora_c : after (start [(.a, 0x33), (.c, 0x0F)] 0x11 [0xB1]) afp = some (0x3F, 0x04, 1) := by
  decide

/-- A18. -/
theorem test_cmp_e : after (start [(.a, 0x02), (.e, 0x05)] 0 [0xBB]) afp = some (0x02, 0x91, 1) := by
  decide

/-- A20. -/
theorem test_cmp_m :
    after (start [(.a, 0x80), (.h, 0x20)] 0 [0xBE] [(0x2000, 0x80)]) afp = some (0x80, 0x44, 1) := by
  decide

/-- I1. -/
theorem test_adi : after (start [(.a, 0x14)] 0 [0xC6, 0x42]) afp = some (0x56, 0x04, 2) := by decide

/-- I2. -/
theorem test_aci : after (start [(.a, 0x56)] 0x01 [0xCE, 0xBE]) afp = some (0x15, 0x11, 2) := by decide

/-- I3. -/
theorem test_sui : after (start [] 0 [0xD6, 0x01]) afp = some (0xFF, 0x95, 2) := by decide

/-- I4. -/
theorem test_sbi : after (start [] 0x01 [0xDE, 0x01]) afp = some (0xFE, 0x91, 2) := by decide

/-- I5. -/
theorem test_ani : after (start [(.a, 0x3A)] 0x11 [0xE6, 0x0F]) afp = some (0x0A, 0x04, 2) := by decide

/-- I6. -/
theorem test_xri : after (start [(.a, 0x3B)] 0x11 [0xEE, 0x81]) afp = some (0xBA, 0x80, 2) := by decide

/-- I7. -/
theorem test_ori : after (start [(.a, 0xB5)] 0x11 [0xF6, 0x0F]) afp = some (0xBF, 0x80, 2) := by decide

/-- I9. -/
theorem test_cpi : after (start [(.a, 0x40)] 0 [0xFE, 0x4A]) afp = some (0x40, 0x95, 2) := by decide

/-! ### Increment, decrement, DAD, DAA, rotates, carry (vectors N1 to N40) -/

/-- N2: CY is kept. -/
theorem test_inr_a : after (start [(.a, 0xFF)] 0x01 [0x3C]) afp = some (0, 0x55, 1) := by decide

/-- N4. -/
theorem test_inr_m :
    after (start [(.h, 0x20)] 0 [0x34] [(0x2000, 0x99)]) (fun t => (t.readMem 0x2000, t.f)) =
      some (0x9A, 0x84) := by decide

/-- N6. -/
theorem test_dcr_b : after (start [] 0 [0x05]) (rfp .b) = some (0xFF, 0x94, 1) := by decide

/-- N8. -/
theorem test_dcr_m :
    after (start [(.h, 0x20)] 0 [0x35] [(0x2000, 0x80)]) (fun t => (t.readMem 0x2000, t.f)) =
      some (0x7F, 0x10) := by decide

/-- N9: no flag. -/
theorem test_inx_bc : after (start [(.b, 0xFF), (.c, 0xFF)] 0xD5 [0x03]) (rfp .b) = some (0, 0xD5, 1) := by
  decide

/-- N13. -/
theorem test_dcx_sp : after (start [] 0 [0x3B]) hlfs = some (0, 0, 0, 0xFFFF) := by decide

/-- N15: Z is not recomputed. -/
theorem test_dad_hl : after (start [(.h, 0x80)] 0xD4 [0x29]) hlfs = some (0, 0, 0xD5, 0) := by decide

/-- N14. -/
theorem test_dad_bc :
    after (start [(.b, 0x33), (.c, 0x9F), (.h, 0xA1), (.l, 0x7B)] 0xD5 [0x09]) hlfs =
      some (0xD5, 0x1A, 0xD4, 0) := by decide

/-- N18. -/
theorem test_daa : after (start [(.a, 0x9B)] 0 [0x27]) afp = some (0x01, 0x11, 1) := by decide

/-- N27. -/
theorem test_daa_old_flags : after (start [(.a, 0x66)] 0x11 [0x27]) afp = some (0xCC, 0x85, 1) := by
  decide

/-- N28. -/
theorem test_rlc : after (start [(.a, 0xF2)] 0xD4 [0x07]) afp = some (0xE5, 0xD5, 1) := by decide

/-- N30. -/
theorem test_rrc : after (start [(.a, 0xF2)] 0x01 [0x0F]) afp = some (0x79, 0x00, 1) := by decide

/-- N32. -/
theorem test_ral : after (start [(.a, 0xB5)] 0 [0x17]) afp = some (0x6A, 0x01, 1) := by decide

/-- N34. -/
theorem test_rar : after (start [(.a, 0x6A)] 0x01 [0x1F]) afp = some (0xB5, 0x00, 1) := by decide

/-- N36. -/
theorem test_cma : after (start [(.a, 0x51)] 0xD5 [0x2F]) afp = some (0xAE, 0xD5, 1) := by decide

/-- N37. -/
theorem test_stc : after (start [] 0xD4 [0x37]) afp = some (0, 0xD5, 1) := by decide

/-- N39. -/
theorem test_cmc : after (start [] 0xD5 [0x3F]) afp = some (0, 0xD4, 1) := by decide

/-! ### Branch and control transfer (vectors B1 to B26) -/

/-- Where a three-byte branch at 0x0100 to 0x1234 goes, with F as given. -/
def goesTo (op f : Byte) : Option Word := after (start [] f [op, 0x34, 0x12] [] 0x0100) (·.pc)

/-- B1 to B8. -/
theorem test_conditional_jumps :
    goesTo 0xC2 0x00 = some 0x1234 ∧ goesTo 0xC2 0x40 = some 0x0103 ∧
    goesTo 0xCA 0x00 = some 0x0103 ∧ goesTo 0xCA 0x40 = some 0x1234 ∧
    goesTo 0xD2 0x00 = some 0x1234 ∧ goesTo 0xD2 0x01 = some 0x0103 ∧
    goesTo 0xDA 0x00 = some 0x0103 ∧ goesTo 0xDA 0x01 = some 0x1234 ∧
    goesTo 0xE2 0x00 = some 0x1234 ∧ goesTo 0xE2 0x04 = some 0x0103 ∧
    goesTo 0xEA 0x00 = some 0x0103 ∧ goesTo 0xEA 0x04 = some 0x1234 ∧
    goesTo 0xF2 0x00 = some 0x1234 ∧ goesTo 0xF2 0x80 = some 0x0103 ∧
    goesTo 0xFA 0x00 = some 0x0103 ∧ goesTo 0xFA 0x80 = some 0x1234 := by decide

/-- B9. -/
theorem test_jmp : after (start [] 0 [0xC3, 0x00, 0x20] [] 0x0100) (·.pc) = some 0x2000 := by decide

/-- X13: the operand bytes are fetched across the wrap. -/
theorem test_jmp_fetch_wraps :
    after (start [] 0 [0xC3, 0x34, 0x12] [] 0xFFFF) (·.pc) = some 0x1234 := by decide

/-- B12: the high byte at SP-1 and the low byte at SP-2, wrapped. -/
theorem test_call_sp_wraps :
    after (start [] 0 [0xCD, 0x00, 0x20] [] 0x0100 0x0001) (stack 0x0000 0xFFFF) =
      some (0x2000, 0xFFFF, 0x01, 0x03) := by decide

/-- B13: the return address wraps. -/
theorem test_call_pc_wraps :
    after (start [] 0 [0xCD, 0x00, 0x20] [] 0xFFFE 0x8000) (stack 0x7FFF 0x7FFE) =
      some (0x2000, 0x7FFE, 0x00, 0x01) := by decide

/-- What a conditional call at 0x0100 to 0x2000 leaves, with SP 0xFF00. -/
def calls (op f : Byte) : Option (Word × Word × Byte × Byte) :=
  after (start [] f [op, 0x00, 0x20] [] 0x0100 0xFF00) (stack 0xFEFF 0xFEFE)

/-- B14 and B15 for CZ, B16 for CNC, and rule R236 with R231 for CNZ. -/
theorem test_conditional_calls_zero_carry :
    calls 0xC4 0x00 = some (0x2000, 0xFEFE, 0x01, 0x03) ∧
    calls 0xCC 0x40 = some (0x2000, 0xFEFE, 0x01, 0x03) ∧
    calls 0xCC 0x00 = some (0x0103, 0xFF00, 0x00, 0x00) ∧
    calls 0xD4 0x00 = some (0x2000, 0xFEFE, 0x01, 0x03) := by decide

/-- B17 for CM, and rule R236 with R231 for CC, CPO, CPE and CP. -/
theorem test_conditional_calls_carry_parity_sign :
    calls 0xDC 0x01 = some (0x2000, 0xFEFE, 0x01, 0x03) ∧
    calls 0xE4 0x00 = some (0x2000, 0xFEFE, 0x01, 0x03) ∧
    calls 0xEC 0x04 = some (0x2000, 0xFEFE, 0x01, 0x03) ∧
    calls 0xF4 0x80 = some (0x0103, 0xFF00, 0x00, 0x00) ∧
    calls 0xFC 0x00 = some (0x0103, 0xFF00, 0x00, 0x00) := by decide

/-- What a return at 0x2000 leaves, with the word 0x0103 at SP 0xFEFE. -/
def returns (op f : Byte) : Option (Word × Word) :=
  after (start [] f [op] [(0xFEFE, 0x03), (0xFEFF, 0x01)] 0x2000 0xFEFE) (fun t => (t.pc, t.sp))

/-- B18 for RET, B20 to B23 for RNZ, RPE and RM, and rule R238 with R231 for the others. -/
theorem test_returns :
    returns 0xC9 0x00 = some (0x0103, 0xFF00) ∧ returns 0xC0 0x00 = some (0x0103, 0xFF00) ∧
    returns 0xC0 0x40 = some (0x2001, 0xFEFE) ∧ returns 0xC8 0x40 = some (0x0103, 0xFF00) ∧
    returns 0xD0 0x01 = some (0x2001, 0xFEFE) ∧ returns 0xD8 0x01 = some (0x0103, 0xFF00) ∧
    returns 0xE0 0x04 = some (0x2001, 0xFEFE) ∧ returns 0xE8 0x04 = some (0x0103, 0xFF00) ∧
    returns 0xF0 0x00 = some (0x0103, 0xFF00) ∧ returns 0xF8 0x00 = some (0x2001, 0xFEFE) := by
  decide

/-- B19. -/
theorem test_ret_sp_wraps :
    after (start [] 0 [0xC9] [(0xFFFF, 0x03), (0x0000, 0x01)] 0x2000 0xFFFF)
      (fun t => (t.pc, t.sp)) = some (0x0103, 0x0001) := by decide

/-- B24, for n = 5. -/
theorem test_rst_5 :
    after (start [] 0 [0xEF] [] 0x1234 0xFF00) (stack 0xFEFF 0xFEFE) =
      some (0x0028, 0xFEFE, 0x12, 0x35) := by decide

/-- B25. -/
theorem test_pchl : after (start [(.h, 0x12), (.l, 0x34)] 0 [0xE9] [] 0x0100) (·.pc) = some 0x1234 := by
  decide

/-- B26. -/
theorem test_sphl :
    after (start [(.h, 0x12), (.l, 0x34)] 0 [0xF9] [] 0x0100) (fun t => (t.pc, t.sp)) =
      some (0x0101, 0x1234) := by decide

/-! ### Stack (vectors K1 to K7) -/

/-- K1. -/
theorem test_push_bc :
    after (start [(.b, 0x12), (.c, 0x34)] 0 [0xC5] [] 0 0xFF00) (stack 0xFEFF 0xFEFE) =
      some (1, 0xFEFE, 0x12, 0x34) := by decide

/-- K2. -/
theorem test_push_hl_sp_wraps :
    after (start [(.h, 0xAA), (.l, 0xBB)] 0 [0xE5] [] 0x0100 0x0000) (stack 0xFFFF 0xFFFE) =
      some (0x0101, 0xFFFE, 0xAA, 0xBB) := by decide

/-- K4: all eight bits of F. -/
theorem test_push_psw :
    after (start [(.a, 0x1F)] 0xFF [0xF5] [] 0 0xFF00) (stack 0xFEFF 0xFEFE) =
      some (1, 0xFEFE, 0x1F, 0xFF) := by decide

/-- K5. -/
theorem test_pop_hl_sp_wraps :
    after (start [] 0 [0xE1] [(0xFFFF, 0x11), (0x0000, 0x22)] 0x0100 0xFFFF) hlfs =
      some (0x22, 0x11, 0, 0x0001) := by decide

/-- K6. -/
theorem test_pop_psw :
    after (start [] 0 [0xF1] [(0xFEFE, 0xC3), (0xFEFF, 0xFF)] 0 0xFEFE)
      (fun t => (t.getReg .a, t.f, t.sp)) = some (0xFF, 0xC3, 0xFF00) := by decide

/-- K7. -/
theorem test_xthl :
    after (start [(.h, 0x0B), (.l, 0x3C)] 0 [0xE3] [(0x10AD, 0xF0), (0x10AE, 0x0D)] 0 0x10AD)
        (fun t => (hlfs t, t.readMem 0x10AD, t.readMem 0x10AE)) =
      some ((0x0D, 0xF0, 0, 0x10AD), 0x3C, 0x0B) := by decide

/-! ### I/O, control and the step driver (vectors X1 to X15, Z1 to Z4) -/

/-- X1: A is whatever the environment answers, and the draw is counted. -/
theorem test_in :
    after (start [] 0 [0xDB, 0x10]) (fun t => (t.getReg .a, t.pc, t.ioReads)) =
      some (Config.ioRead 0 0x10, 2, 1) := rfl

/-- X2. -/
theorem test_out :
    after (start [(.a, 0x80)] 0 [0xD3, 0x01]) (fun t => (t.ioWrites, t.pc)) =
      some ([{ port := 0x01, value := 0x80 }], 2) := by decide

/-- X3. -/
theorem test_ei : after (start [] 0 [0xFB]) (fun t => (t.ie, t.pc)) = some (true, 1) := by decide

/-- X4. -/
theorem test_di : after ((start [] 0 [0xF3]).setIe true) (fun t => (t.ie, t.pc)) = some (false, 1) := by
  decide

/-- X5 and X6. -/
theorem test_rim_sim :
    after (start [(.a, 0x77)] 0 [0x20] [] 0x0010) afp = some (0x77, 0, 0x0011) ∧
      after (start [(.a, 0x0F)] 0 [0x30] [] 0x0010) afp = some (0x0F, 0, 0x0011) := by decide

/-- X9, with the result of S7. -/
theorem test_hlt :
    stepResult (start [] 0 [0x76] [] 0xFFFF) = { nextPc := 0, halted := true, error := none } := by
  decide

/-- X12: the halted check comes first. -/
theorem test_halted_at_unimplemented :
    stepResult ((start [] 0 [0x00] [] 0x0040).setHalted true) =
      { nextPc := 0x0040, halted := true, error := none } := by decide

/-- X10. -/
theorem test_unimplemented :
    unimplementedBytes.all (fun b => decide (stepResult (start [(.a, 0x01)] 0 [b] [] 0x0040) =
      { nextPc := 0x0040, halted := false,
        error := some (.unimplementedOpcode b 0x0040) })) = true := by decide

/-- Z1. -/
theorem test_reset_operation :
    let s := ((start [(.a, 0x12), (.b, 0x34), (.h, 0x56)] 0xFF [] [(0x2000, 0x99)] 0x1234
      0x0042).setIe true).setHalted true
    s.resetOp 0xFFFF = (State.cleared 0xFFFF []).writeMem 0x2000 0x99 := by decide

/-- Z2: the load wraps. -/
theorem test_load_wraps :
    readRange (State.reset.load [0x11, 0x22, 0x33] 0xFFFE) 0xFFFE 3 = [0x11, 0x22, 0x33] ∧
      (State.reset.load [0x11, 0x22, 0x33] 0xFFFE).mem =
        [(0, 0x33), (65534, 0x11), (65535, 0x22)] := by decide

/-- Rule R341 with another `MEM_INIT`: a core created with 0x76 (HLT) in every cell halts at 0x0000, where the
default memory gives Z4's error. -/
theorem test_create_with_another_memInit :
    (after (State.create 0xFF00 fun _ => 0x76) fun t => (t.halted, t.pc, t.sp)) =
        some (true, 1, 0xFF00) ∧
      stepError State.reset = some (.unimplementedOpcode 0x00 0x0000) := by
  refine ⟨?_, by decide⟩
  have fetched : (State.create 0xFF00 fun _ => 0x76).fetchInstr = .hlt := by
    simp only [State.fetchInstr, State.create_readMem]
    decide
  rw [after, step_of_running (State.create_halted _ _), fetched]
  rfl

/-- Writing what an unlisted address reads as removes the entry (the memory's canonical form). -/
theorem test_write_initial_value_unlists :
    ((State.reset.writeMem 0x2000 0x99).writeMem 0x2000 0x00).mem = [] := by decide

/-! ## Witnesses: states and operands that meet the hypotheses of each obligation that has some -/

/-- JMP 0x1234 with its operand bytes across the wrap. -/
def jmpAtTheTop : State := start [] 0 [0xC3, 0x34, 0x12] [] 0xFFFF

theorem witness_DecodeOfEncodeIsTheInstruction :
    (Instr.lxi .sp 0xFF00).wellFormed = true ∧ (Instr.unimplemented 0xFD).wellFormed = true := by
  decide

theorem witness_StepRunsTheInstructionAtPc :
    (Instr.jmp 0x1234).wellFormed = true ∧ jmpAtTheTop.halted = false ∧
      ∀ (k : Nat) (inside : k < (encode (.jmp 0x1234)).length),
        jmpAtTheTop.readMem (jmpAtTheTop.pc + BitVec.ofNat 16 k) = (encode (.jmp 0x1234))[k] := by
  decide

theorem witness_HaltedStepsChangeNothing : (State.reset.setHalted true).halted = true := by decide

theorem witness_UnimplementedOpcodeError :
    State.reset.halted = false ∧
      decode (State.reset.readMem State.reset.pc) 0 0 = .unimplemented 0x00 := by decide

theorem witness_StepResultReportsTheStep :
    (stepResult (start [] 0 [0x76])).halted = true ∧
      (stepResult State.reset).error = some (.unimplementedOpcode 0x00 0) := by decide

/-- One step that halts, one that does not, and one of a halted core. -/
theorem witness_OnlyHltHalts :
    (∃ t, step (start [] 0 [0x76]) = .next t) ∧ (∃ t, step jmpAtTheTop = .next t) ∧
      ∃ t, step (State.reset.setHalted true) = .next t := ⟨⟨_, rfl⟩, ⟨_, rfl⟩, ⟨_, rfl⟩⟩

theorem witness_StoreIsSeenByTheNextFetch : State.reset.halted = false := by decide

/-- HL is PC in the first core and PC+1 in the second. -/
theorem witness_MviToMemory :
    ((start [] 0 [0x36, 0xAB]).halted = false ∧ (start [] 0 [0x36, 0xAB]).readMem 0 = 0x36) ∧
      (start [(.l, 0x01)] 0 [0x36, 0xAB]).halted = false ∧
      (start [(.l, 0x01)] 0 [0x36, 0xAB]).readMem 0 = 0x36 := by decide

/-- A taken and an untaken call. -/
theorem witness_FrameOfEveryInstruction :
    (∃ t, exec (.call 0x2000) State.reset = .next t) ∧
      ∃ t, exec (.cz 0x2000) State.reset = .next t := ⟨⟨_, rfl⟩, ⟨_, rfl⟩⟩

theorem witness_NextPcOfEveryInstruction :
    (∃ t, exec (.rst 7) State.reset = .next t) ∧ ∃ t, exec .pchl State.reset = .next t :=
  ⟨⟨_, rfl⟩, ⟨_, rfl⟩⟩

/-- A store at the top of memory. -/
theorem witness_StepKeepsMemoryCanonical :
    Safety.Inv (start [(.h, 0xFF), (.l, 0xFF)] 0 [0x36, 0xAB]) ∧
      ∃ t, step (start [(.h, 0xFF), (.l, 0xFF)] 0 [0x36, 0xAB]) = .next t :=
  ⟨by unfold Safety.Inv; decide, _, rfl⟩

theorem witness_EnvironmentKeepsMemoryCanonical :
    Safety.Inv State.reset ∧ Safety.Inv jmpAtTheTop := by
  unfold Safety.Inv
  decide

/-- ADD B with all three unused bits set in one core and clear in the other, and a halted core at PUSH
PSW. -/
theorem witness_UnusedFlagBitsAreNeverInterpreted :
    0x2A#8 &&& 0xD5#8 = (start [] 0 [0x80]).f &&& 0xD5#8 ∧
      ((start [] 0 [0x80]).halted = true ∨
        (start [] 0 [0x80]).readMem (start [] 0 [0x80]).pc ≠ 0xF5) ∧
      ((start [] 0 [0xF5]).setHalted true).halted = true := by decide

/-- The last byte of a short load, the first byte kept of an over-long one, and a cell no byte reaches. -/
theorem witness_LoadPlacesTheBytes :
    (2 < [0x11#8, 0x22, 0x33].length ∧ [0x11#8, 0x22, 0x33].length ≤ 2 + 65536) ∧
    (1 < (List.replicate 65537 0x5A#8).length ∧ (List.replicate 65537 0x5A#8).length ≤ 1 + 65536) ∧
    ∀ k, k < [0x11#8, 0x22, 0x33].length → (0x0001 : Word) ≠ 0xFFFE + BitVec.ofNat 16 k := by
  refine ⟨by decide, ?_, by decide⟩
  rw [List.length_replicate]
  exact ⟨by norm_num, by norm_num⟩

theorem witness_EqualReadsMeanEqualMemories :
    Memory.wf [(5, 0x01)] ∧ Memory.wf ((State.reset.writeMem 5 0x01).mem) ∧
      ∀ address < 65536, Memory.read [(5, 0x01)] address =
        Memory.read (State.reset.writeMem 5 0x01).mem address :=
  ⟨by decide, by decide, fun _ _ => rfl⟩

/-- 48 + 37 with a carry in, and 99 + 99, the largest. -/
theorem witness_DecimalAdditionIsExact :
    ((start [(.a, 0x48), (.b, 0x37)] 0x01 []).getReg .a = bcd 48 ∧
      secondOperand (start [(.a, 0x48), (.b, 0x37)] 0x01 []) (.reg .b) = bcd 37) ∧
    (start [(.a, 0x99), (.h, 0x20)] 0 [] [(0x2000, 0x99)]).getReg .a = bcd 99 ∧
      secondOperand (start [(.a, 0x99), (.h, 0x20)] 0 [] [(0x2000, 0x99)]) .m = bcd 99 := by decide

/-- The four cases of the adjustment, at the edges of their ranges. -/
theorem witness_DecimalAdjust :
    after (start [(.a, 0x9A)] 0 [0x27]) (·.getReg .a) = some (0x9A + 0x66) ∧
    after (start [(.a, 0x8A)] 0 [0x27]) (·.getReg .a) = some (0x8A + 0x06) ∧
    after (start [(.a, 0xA0)] 0 [0x27]) (·.getReg .a) = some (0xA0 + 0x60) ∧
    after (start [(.a, 0x99)] 0 [0x27]) (·.getReg .a) = some 0x99 := by decide

/-- F with every tested flag clear, and with every tested flag set: each condition holds in just one. -/
theorem witness_ConditionalJumps :
    ∀ row ∈ conditionalJumps, (∃ f : Byte, Holds (State.reset.setF f) row.2) ∧
      ∃ f : Byte, ¬Holds (State.reset.setF f) row.2 := by
  simp only [conditionalJumps, List.forall_mem_cons, List.not_mem_nil, false_implies, implies_true,
    and_true]
  refine ⟨⟨⟨0, ?_⟩, 0xC5, ?_⟩, ⟨⟨0xC5, ?_⟩, 0, ?_⟩, ⟨⟨0, ?_⟩, 0xC5, ?_⟩, ⟨⟨0xC5, ?_⟩, 0, ?_⟩,
    ⟨⟨0, ?_⟩, 0xC5, ?_⟩, ⟨⟨0xC5, ?_⟩, 0, ?_⟩, ⟨⟨0, ?_⟩, 0xC5, ?_⟩, ⟨0xC5, ?_⟩, 0, ?_⟩ <;>
    simp only [Holds] <;> decide

theorem witness_Calls :
    (.cz, Cond.z) ∈ conditionalCalls ∧ Holds (State.reset.setF 0x40) .z ∧ ¬Holds State.reset .z := by
  refine ⟨by simp [conditionalCalls], ?_, ?_⟩ <;> simp only [Holds] <;> decide

theorem witness_Returns :
    (.rpe, Cond.pe) ∈ conditionalReturns ∧ Holds (State.reset.setF 0x04) .pe ∧
      ¬Holds State.reset .pe := by
  refine ⟨by simp [conditionalReturns], ?_, ?_⟩ <;> simp only [Holds] <;> decide

theorem witness_UnimplementedAlwaysStops :
    ∀ byte ∈ unimplementedBytes, (start [] 0 [byte] [] 0x0040).halted = false ∧
      (start [] 0 [byte] [] 0x0040).readMem (start [] 0 [byte] [] 0x0040).pc = byte := by decide

end Sys2Proof.Tests
end

section
/-! The data transfer instructions (spec/40_data_transfer.md). -/

namespace Sys2Proof.Machine

open Sys2Proof.Safety

/-! ## Instructions that go on to the next one -/

/-- A meaning that updates the state to `t` and then advances completes with the frame of the update. -/
theorem completes_of_advance {i : Instr} {s t : State} {n : Word} {changed : List Part}
    {result : State → Prop} (meaning : exec i s = t.advance n) (samePc : t.pc = s.pc)
    (frame : Frame changed s t) (computed : result (t.setPc (s.pc + n))) :
    Completes i s (s.pc + n) changed result := by
  refine ⟨t.setPc (s.pc + n), ?_, t.setPc_pc _, ?_, computed⟩
  · rw [meaning, State.advance, samePc]
  · exact (frame.trans (setPc_frame t _)).mono (by simp)

/-! ## MVI M,d8 (rule R124) -/

theorem exec_mviM (imm : Byte) (s : State) :
    exec (.mviM imm) s = (s.writeMem s.hl imm).advance 2 := rfl

theorem decode_mviM (b2 b3 : Byte) : decode 0x36 b2 b3 = .mviM b2 := rfl

theorem mviM_completes (imm : Byte) (s : State) :
    Completes (.mviM imm) s (s.pc + 2) [.cell (hlOf s)] fun t => t.readMem (hlOf s) = imm := by
  rw [← s.hl_eq_hlOf]
  exact completes_of_advance (exec_mviM imm s) rfl (writeMem_frame s s.hl imm) (by simp)

/-- The fetch reads the old state, so the immediate executed is the byte that was at PC+1. -/
theorem step_of_mviM {s : State} (running : s.halted = false) (opcode : s.readMem s.pc = 0x36) :
    step s = exec (.mviM (s.readMem (s.pc + 1))) s := by
  rw [step_of_running running, State.fetchInstr, opcode, decode_mviM]

/-- Settles O28: the immediate is the operand of the instruction fetched from the old state, so the step
is MVI M's own meaning with that byte. -/
theorem mviToMemory : Obligations.MviToMemory := by
  unfold Obligations.MviToMemory
  refine ⟨fun imm s => ⟨rfl, mviM_completes imm s⟩, fun s running opcode => ?_⟩
  obtain ⟨t, executes, pc, -, stored⟩ := mviM_completes (s.readMem (s.pc + 1)) s
  exact ⟨t, (step_of_mviM running opcode).trans executes, pc, stored⟩

end Sys2Proof.Machine
end

section
/-! Accumulator arithmetic and logic (spec/41_arithmetic_logic.md): the add kind and the logical kind. -/

namespace Sys2Proof.Machine

open Sys2Proof.Safety

/-! ## The meaning of each instruction (rules R160, R161, R164 to R166, R170, R171, R174 to R176) -/

theorem exec_add (src : Operand) (s : State) :
    exec (.add src) s = (s.addToA (s.readOperand src) false).advance 1 := rfl

theorem exec_adc (src : Operand) (s : State) :
    exec (.adc src) s = (s.addToA (s.readOperand src) (s.flag .cy)).advance 1 := rfl

theorem exec_adi (imm : Byte) (s : State) :
    exec (.adi imm) s = (s.addToA imm false).advance 2 := rfl

theorem exec_aci (imm : Byte) (s : State) :
    exec (.aci imm) s = (s.addToA imm (s.flag .cy)).advance 2 := rfl

theorem exec_ana (src : Operand) (s : State) :
    exec (.ana src) s = (s.logicToA (s.getReg .a &&& s.readOperand src)).advance 1 := rfl

theorem exec_xra (src : Operand) (s : State) :
    exec (.xra src) s = (s.logicToA (s.getReg .a ^^^ s.readOperand src)).advance 1 := rfl

theorem exec_ora (src : Operand) (s : State) :
    exec (.ora src) s = (s.logicToA (s.getReg .a ||| s.readOperand src)).advance 1 := rfl

theorem exec_ani (imm : Byte) (s : State) :
    exec (.ani imm) s = (s.logicToA (s.getReg .a &&& imm)).advance 2 := rfl

theorem exec_xri (imm : Byte) (s : State) :
    exec (.xri imm) s = (s.logicToA (s.getReg .a ^^^ imm)).advance 2 := rfl

theorem exec_ori (imm : Byte) (s : State) :
    exec (.ori imm) s = (s.logicToA (s.getReg .a ||| imm)).advance 2 := rfl

/-! ## A and the flags do not depend on PC -/

@[simp] theorem addedToA_setPc (s t : State) (b : Byte) (c : Nat) (pc : Word) :
    AddedToA s b c (t.setPc pc) ↔ AddedToA s b c t := Iff.rfl

@[simp] theorem logicResult_setPc (res : Byte) (t : State) (pc : Word) :
    LogicResult res (t.setPc pc) ↔ LogicResult res t := Iff.rfl

/-! ## The two kinds, whatever the operand form -/

/-- An instruction whose meaning is the add kind and then the advance (rules R151, R152). -/
theorem completes_of_addToA {i : Instr} {s : State} {b : Byte} {c : Bool} {n : Word}
    (meaning : exec i s = (s.addToA b c).advance n) :
    Completes i s (s.pc + n) (.reg .a :: allFlags) (AddedToA s b c.toNat) :=
  completes_of_advance meaning (s.addToA_pc b c) (addToA_frame s b c)
    ((addedToA_setPc ..).mpr (s.addToA_spec b c))

/-- An instruction whose meaning is the logical kind and then the advance (rules R151, R154). -/
theorem completes_of_logicToA {i : Instr} {s : State} {res : Byte} {n : Word}
    (meaning : exec i s = (s.logicToA res).advance n) :
    Completes i s (s.pc + n) (.reg .a :: allFlags) (LogicResult res) :=
  completes_of_advance meaning (s.logicToA_pc res) (logicToA_frame s res)
    ((logicResult_setPc ..).mpr (s.logicToA_spec res))

/-! ## The obligations -/

/-- Settles O32: all four are the add kind, with the old CY or 0 as the carry in. -/
theorem addKind : Obligations.AddKind := by
  unfold Obligations.AddKind
  refine ⟨fun src s => ?registerOrM, fun imm s => ?immediate⟩
  case registerOrM =>
    rw [← s.readOperand_eq src]
    exact ⟨rfl, rfl, completes_of_addToA (exec_add src s), completes_of_addToA (exec_adc src s)⟩
  case immediate =>
    exact ⟨completes_of_addToA (exec_adi imm s), completes_of_addToA (exec_aci imm s)⟩

/-- Settles O34: all six are the logical kind on A and the second operand. -/
theorem logicalKind : Obligations.LogicalKind := by
  unfold Obligations.LogicalKind
  refine ⟨fun src s => ?registerOrM, fun imm s => ?immediate⟩
  case registerOrM =>
    rw [← s.readOperand_eq src]
    exact ⟨rfl, rfl, rfl, completes_of_logicToA (exec_ana src s),
      completes_of_logicToA (exec_xra src s), completes_of_logicToA (exec_ora src s)⟩
  case immediate =>
    exact ⟨completes_of_logicToA (exec_ani imm s), completes_of_logicToA (exec_xri imm s),
      completes_of_logicToA (exec_ori imm s)⟩

end Sys2Proof.Machine
end

section
/-! Increment (spec/42_incdec_dad_daa_rotate.md section "INR, DCR"): the flags and INR M. -/

namespace Sys2Proof.Machine

open Sys2Proof.Safety

/-! ## The flags of the increment (rules R151, R152, R155) -/

theorem getFlag_incFlags (f v : Byte) (g : Flag) :
    getFlag (incFlags f v) g =
      if g = .ac then addAc v 1 false else getFlag (setSZP f (addResult v 1 false)) g :=
  getFlag_setFlag ..

/-- Adding 1 carries out of bit 3 exactly when the low nibble is full. -/
theorem addAc_one (v : Byte) : addAc v 1 false = decide (v.toNat % 16 = 15) := by
  have one : lowNibble 1 = 1 := by decide
  rw [addAc, one, lowNibble, Bool.toNat_false, decide_eq_decide]
  omega

/-- What INR's flags say of the value `v` before the increment, in any state that holds them. -/
theorem signZeroParity_and_ac_of_incFlags {t : State} {f v : Byte} (flags : t.f = incFlags f v) :
    SignZeroParity t (addResult v 1 false).toNat ∧ t.flag .ac = decide (v.toNat % 16 = 15) := by
  have flag_eq (g : Flag) : t.flag g = getFlag (incFlags f v) g := by rw [State.flag, flags]
  constructor
  · apply signZeroParity_of <;> simp [flag_eq, getFlag_incFlags, getFlag_setSZP]
  · rw [flag_eq, getFlag_incFlags, if_pos rfl, addAc_one]

/-! ## INR M (rule R201) -/

/-- The cell at HL incremented and the flags set from its old value, PC not yet advanced. -/
def State.incrementCell (s : State) : State :=
  (s.writeMem s.hl (addResult (s.readMem s.hl) 1 false)).setF (incFlags s.f (s.readMem s.hl))

theorem exec_inrM (s : State) : exec .inrM s = s.incrementCell.advance 1 := rfl

theorem State.incrementCell_f (s : State) : s.incrementCell.f = incFlags s.f (s.readMem s.hl) := rfl

theorem State.incrementCell_readMem_hl (s : State) :
    s.incrementCell.readMem s.hl = addResult (s.readMem s.hl) 1 false := by
  simp [State.incrementCell]

theorem incrementCell_frame (s : State) :
    Frame (.cell s.hl :: flagsLessCy) s s.incrementCell :=
  (writeMem_frame s s.hl _).trans (incFlags_frame _ _)

/-- Settles O37: the cell takes its old value plus 1, and the flags are the increment's. -/
theorem incrementMemory : Obligations.IncrementMemory := by
  unfold Obligations.IncrementMemory
  intro s
  rw [← s.hl_eq_hlOf]
  refine ⟨rfl, completes_of_advance (exec_inrM s) rfl (incrementCell_frame s) ?_⟩
  rw [State.setPc_readMem, s.incrementCell_readMem_hl]
  exact ⟨addResult_toNat .., signZeroParity_and_ac_of_incFlags s.incrementCell_f⟩

end Sys2Proof.Machine
end

section
/-! The stack primitives (spec/44_stack.md rules R260, R261). -/

namespace Sys2Proof.Machine

open Sys2Proof.Safety

/-! ## The two cells a push writes (rule R260) -/

/-- The later write of the low byte does not reach the high byte's cell, also when SP wraps. -/
theorem State.push16_readMem_high (s : State) (v : Word) :
    (s.push16 v).readMem (s.sp - 1) = hiByte v := by
  have cells_differ : s.sp - 1 ≠ s.sp - 2 := by bv_omega
  rw [s.push16_readMem, if_neg cells_differ, if_pos rfl]

theorem State.push16_readMem_low (s : State) (v : Word) :
    (s.push16 v).readMem (s.sp - 2) = loByte v := by
  rw [s.push16_readMem, if_pos rfl]

/-- A pop right after a push restores SP (rule R261). -/
theorem State.push16_popped_sp (s : State) (v : Word) : (s.push16 v).popped.sp = s.sp :=
  BitVec.sub_add_cancel s.sp 2

/-- Settles O52: the two cells by their halves of `v`, the frames of the two primitives, and their
inversion. -/
theorem pushAndPopPrimitives : Obligations.PushAndPopPrimitives := by
  unfold Obligations.PushAndPopPrimitives
  intro v s
  have high : ((s.push16 v).readMem (s.sp - 1)).toNat = v.toNat / 256 := by
    rw [s.push16_readMem_high, hiByte_toNat]
  have low : ((s.push16 v).readMem (s.sp - 2)).toNat = v.toNat % 256 := by
    rw [s.push16_readMem_low, loByte_toNat]
  exact ⟨high, low, s.push16_sp v, s.push16_pc v, push16_frame s v,
    s.topOfStack_eq_poppedWord, s.popped_sp, s.popped_pc, popped_frame s,
    s.topOfStack_push16 v, s.push16_popped_sp v⟩

end Sys2Proof.Machine
end

section
/-! The step driver (spec/45_io_control.md rules R293 to R296): what a step can answer beside a next
state, and what its result says. -/

namespace Sys2Proof.Machine

/-! ## The answers of the conditional transfers (rules R234, R236, R238) -/

theorem State.jumpIf_completes (s : State) (taken : Bool) (addr : Word) :
    ∃ t, s.jumpIf taken addr = .next t := by
  obtain ⟨-, h⟩ | ⟨-, h⟩ := s.jumpIf_cases taken addr <;> exact ⟨_, h⟩

theorem State.callIf_completes (s : State) (taken : Bool) (addr : Word) :
    ∃ t, s.callIf taken addr = .next t := by
  obtain ⟨-, h⟩ | ⟨-, h⟩ := s.callIf_cases taken addr <;> exact ⟨_, h⟩

theorem State.returnIf_completes (s : State) (taken : Bool) :
    ∃ t, s.returnIf taken = .next t := by
  obtain ⟨-, h⟩ | ⟨-, h⟩ := s.returnIf_cases taken <;> exact ⟨_, h⟩

/-! ## Only a byte with no instruction stops (rules R100, R301, R304) -/

theorem exec_unimplemented (byte : Byte) (s : State) :
    exec (.unimplemented byte) s = .fault (.unimplementedOpcode byte s.pc) := rfl

theorem exec_completes_or_unimplemented (i : Instr) (s : State) :
    (∃ t, exec i s = .next t) ∨ ∃ byte, i = .unimplemented byte := by
  cases i with
  | unimplemented byte => exact .inr ⟨byte, rfl⟩
  | jnz addr | jz addr | jnc addr | jc addr | jpo addr | jpe addr | jp addr | jm addr =>
    exact .inl (s.jumpIf_completes _ addr)
  | cnz addr | cz addr | cnc addr | cc addr | cpo addr | cpe addr | cp addr | cm addr =>
    exact .inl (s.callIf_completes _ addr)
  | rnz | rz | rnc | rc | rpo | rpe | rp | rm => exact .inl (s.returnIf_completes _)
  | _ => exact .inl ⟨_, rfl⟩

theorem exec_fault {i : Instr} {s : State} {reason : Fault} (h : exec i s = .fault reason) :
    ∃ byte, i = .unimplemented byte ∧ reason = .unimplementedOpcode byte s.pc := by
  obtain ⟨t, completes⟩ | ⟨byte, rfl⟩ := exec_completes_or_unimplemented i s
  · rw [completes] at h
    cases h
  · rw [exec_unimplemented] at h
    cases h
    exact ⟨byte, rfl, rfl⟩

/-! ## The byte an undefined instruction carries is its opcode byte (rule R100) -/

theorem onRegisterOrM_ne_unimplemented {onReg : Reg → Instr} {onM : Instr} {byte : Byte}
    (target : Operand) (reg : ∀ r, onReg r ≠ .unimplemented byte) (m : onM ≠ .unimplemented byte) :
    onRegisterOrM target onReg onM ≠ .unimplemented byte := by
  cases target with
  | reg r => exact reg r
  | m => exact m

theorem eq_opcode_of_decodeQuadrant0 {op b2 b3 byte : Byte}
    (h : decodeQuadrant0 op b2 b3 = .unimplemented byte) : byte = op := by
  simp only [decodeQuadrant0] at h
  split at h
  -- INR, DCR and MVI are the columns that choose by their operand and not by a row.
  case h_5 | h_6 | h_7 =>
    exact absurd h (onRegisterOrM_ne_unimplemented _ (fun _ => Instr.noConfusion) Instr.noConfusion)
  all_goals split at h <;> cases h <;> rfl

theorem decodeQuadrant1_ne_unimplemented (op byte : Byte) :
    decodeQuadrant1 op ≠ .unimplemented byte := by
  unfold decodeQuadrant1
  split <;> exact Instr.noConfusion

theorem decodeQuadrant2_ne_unimplemented (op byte : Byte) :
    decodeQuadrant2 op ≠ .unimplemented byte := by
  unfold decodeQuadrant2
  split <;> exact Instr.noConfusion

theorem eq_opcode_of_decodeQuadrant3 {op b2 b3 byte : Byte}
    (h : decodeQuadrant3 op b2 b3 = .unimplemented byte) : byte = op := by
  simp only [decodeQuadrant3] at h
  split at h
  -- RST is the one column with a single instruction for all its rows.
  case h_8 => cases h
  all_goals split at h <;> cases h <;> rfl

theorem eq_opcode_of_decode_unimplemented {op b2 b3 byte : Byte}
    (h : decode op b2 b3 = .unimplemented byte) : byte = op := by
  unfold decode at h
  split at h
  · exact eq_opcode_of_decodeQuadrant0 h
  · exact absurd h (decodeQuadrant1_ne_unimplemented op byte)
  · exact absurd h (decodeQuadrant2_ne_unimplemented op byte)
  · exact eq_opcode_of_decodeQuadrant3 h

/-! ## What a step and its result say (rules R293 to R296) -/

/-- A step faults only in a running core, with the byte at PC and the PC. -/
theorem step_fault {s : State} {reason : Fault} (h : step s = .fault reason) :
    s.halted = false ∧ reason = .unimplementedOpcode (s.readMem s.pc) s.pc := by
  cases halted : s.halted with
  | true =>
    rw [step_of_halted halted] at h
    cases h
  | false =>
    rw [step_of_running halted] at h
    obtain ⟨byte, fetched, reason_eq⟩ := exec_fault h
    have byte_eq : byte = s.readMem s.pc := eq_opcode_of_decode_unimplemented fetched
    exact ⟨rfl, byte_eq ▸ reason_eq⟩

theorem afterStep_of_next {s t : State} (h : step s = .next t) : afterStep s = t := by
  rw [afterStep, h]

theorem afterStep_of_fault {s : State} {reason : Fault} (h : step s = .fault reason) :
    afterStep s = s := by
  rw [afterStep, h]

theorem stepError_of_next {s t : State} (h : step s = .next t) : stepError s = none := by
  rw [stepError, h]

theorem stepError_eq_some_iff {s : State} {reason : Fault} :
    stepError s = some reason ↔ step s = .fault reason := by
  unfold stepError
  cases step s <;> simp

/-- Settles O10: an error is a step that faults, which leaves a running core as it was. -/
theorem stepResultReportsTheStep : Obligations.StepResultReportsTheStep := by
  unfold Obligations.StepResultReportsTheStep
  refine fun s => ⟨rfl, fun halted => ?noError, fun reason error => ?content⟩
  case noError =>
    refine Option.eq_none_iff_forall_ne_some.mpr fun reason error => ?_
    have faults := stepError_eq_some_iff.mp error
    have still_halted : s.halted = true := afterStep_of_fault faults ▸ halted
    exact Bool.false_ne_true ((step_fault faults).left.symm.trans still_halted)
  case content => exact (step_fault (stepError_eq_some_iff.mp error)).right

/-! ## Halted cores (rule R295) -/

theorem afterStep_of_halted {s : State} (h : s.halted = true) : afterStep s = s :=
  afterStep_of_next (step_of_halted h)

theorem stepResult_of_halted {s : State} (h : s.halted = true) :
    stepResult s = { nextPc := s.pc, halted := true, error := none } := by
  rw [stepResult, afterStep_of_halted h, stepError_of_next (step_of_halted h), h]

/-- Settles O7: a halted core is a fixed point of the step. -/
theorem haltedStepsChangeNothing : Obligations.HaltedStepsChangeNothing := by
  unfold Obligations.HaltedStepsChangeNothing
  intro s n halted
  have unchanged : afterStep^[n] s = s := Function.iterate_fixed (afterStep_of_halted halted) n
  exact ⟨unchanged, unchanged.symm ▸ stepResult_of_halted halted⟩

end Sys2Proof.Machine
end

section
/-! RIM and SIM (spec/45_io_control.md rules R286, R287). -/

namespace Sys2Proof.Machine

open Sys2Proof.Safety

theorem exec_rim (s : State) : exec .rim s = s.advance 1 := rfl

theorem exec_sim (s : State) : exec .sim s = s.advance 1 := rfl

/-- An instruction whose meaning is the advance alone writes no part and keeps A. -/
theorem completes_of_advance_only {i : Instr} {s : State} {n : Word}
    (meaning : exec i s = s.advance n) :
    Completes i s (s.pc + n) [] fun t => t.getReg .a = s.getReg .a :=
  completes_of_advance meaning rfl (Frame.refl s) rfl

/-- Settles O59: the meaning of both is the advance alone. -/
theorem rimAndSimOnlyAdvance : Obligations.RimAndSimOnlyAdvance := by
  unfold Obligations.RimAndSimOnlyAdvance
  intro s
  exact ⟨rfl, rfl, exec_rim s, exec_sim s,
    completes_of_advance_only (exec_rim s), completes_of_advance_only (exec_sim s)⟩

end Sys2Proof.Machine
end

section
/-! The decoder and the encoder (spec/30_encoding.md): what an instruction's bytes are, and what any
bytes decode to. -/

namespace Sys2Proof.Machine

/-! ## The opcode byte by its fields (rules R85, R102) -/

theorem pairCode_cases {motive : BitVec 2 → Prop} (code0 : motive 0) (code1 : motive 1)
    (code2 : motive 2) (code3 : motive 3) (x : BitVec 2) : motive x := by
  have codes : x = 0 ∨ x = 1 ∨ x = 2 ∨ x = 3 := by revert x; decide
  rcases codes with rfl | rfl | rfl | rfl <;> assumption

theorem fieldCode_cases {motive : BitVec 3 → Prop} (code0 : motive 0) (code1 : motive 1)
    (code2 : motive 2) (code3 : motive 3) (code4 : motive 4) (code5 : motive 5)
    (code6 : motive 6) (code7 : motive 7) (x : BitVec 3) : motive x := by
  have codes : x = 0 ∨ x = 1 ∨ x = 2 ∨ x = 3 ∨ x = 4 ∨ x = 5 ∨ x = 6 ∨ x = 7 := by
    revert x; decide
  rcases codes with rfl | rfl | rfl | rfl | rfl | rfl | rfl | rfl <;> assumption

/-- What holds of every quadrant, middle field and low field holds of every opcode byte. -/
theorem opcode_induction {P : Byte → Prop}
    (fields : ∀ (q : BitVec 2) (mid low : BitVec 3), P (q ++ mid ++ low : BitVec 8)) (op : Byte) :
    P op := by
  have opcode_eq : op = (op.extractLsb' 6 2 ++ midField op ++ lowField op : BitVec 8) := by
    revert op; decide
  rw [opcode_eq]
  exact fields _ _ _

/-! ## The three lengths (rules R82 to R84) -/

theorem decodeStream_of_length_one {op : Byte} (h : opcodeLength op = 1) (rest : List Byte) :
    decodeStream (op :: rest) = .ok (decode op 0 0, rest) := by
  simp only [decodeStream, h]

theorem decodeStream_of_length_two {op : Byte} (h : opcodeLength op = 2) (b2 : Byte)
    (rest : List Byte) : decodeStream (op :: b2 :: rest) = .ok (decode op b2 0, rest) := by
  simp only [decodeStream, h]

theorem decodeStream_of_length_three {op : Byte} (h : opcodeLength op = 3) (b2 b3 : Byte)
    (rest : List Byte) : decodeStream (op :: b2 :: b3 :: rest) = .ok (decode op b2 b3, rest) := by
  simp only [decodeStream, h]

/-- The bytes of `i`, and that the decoder reads `i` from them and ignores every byte after them. -/
inductive DecodesBack (i : Instr) : Prop where
  | one (op : Byte) (bytes : encode i = [op]) (length : opcodeLength op = 1)
      (decoded : ∀ b2 b3, decode op b2 b3 = i)
  | two (op b2 : Byte) (bytes : encode i = [op, b2]) (length : opcodeLength op = 2)
      (decoded : ∀ b3, decode op b2 b3 = i)
  | three (op b2 b3 : Byte) (bytes : encode i = [op, b2, b3]) (length : opcodeLength op = 3)
      (decoded : decode op b2 b3 = i)

/-- A three-byte instruction, from the opcode whose operand bytes the decoder puts together as the
word of `make`, low byte first. -/
theorem decodesBack_of_word {make : Word → Instr} {op : Byte} (v : Word)
    (bytes : encode (make v) = op :: wordBytes v) (length : opcodeLength op = 3)
    (decoded : ∀ b2 b3, decode op b2 b3 = make (wordOf b3 b2)) : DecodesBack (make v) :=
  .three op (loByte v) (hiByte v) bytes length (by rw [decoded, wordOf_halves])

theorem decodesBack_of_wellFormed {i : Instr} (wellFormed : i.wellFormed = true) :
    DecodesBack i := by
  cases i with
  | movRR dst src => cases dst <;> cases src <;> exact .one _ rfl rfl fun _ _ => rfl
  | movRM r | movMR r | inrR r | dcrR r => cases r <;> exact .one _ rfl rfl fun _ _ => rfl
  | add src | adc src | sub src | sbb src | ana src | xra src | ora src | cmp src =>
    rcases src with (_ | _ | _ | _ | _ | _ | _) | _ <;> exact .one _ rfl rfl fun _ _ => rfl
  | ldax pair | stax pair | inx pair | dcx pair | dad pair | push pair | pop pair =>
    cases pair <;> exact .one _ rfl rfl fun _ _ => rfl
  | mviR dst imm => cases dst <;> exact .two _ imm rfl rfl fun _ => rfl
  | mviM b | adi b | aci b | sui b | sbi b | ani b | xri b | ori b | cpi b | inPort b | outPort b =>
    exact .two _ b rfl rfl fun _ => rfl
  | lxi pair imm16 => cases pair <;> exact decodesBack_of_word imm16 rfl rfl fun _ _ => rfl
  | lda v | sta v | lhld v | shld v
  | jmp v | jnz v | jz v | jnc v | jc v | jpo v | jpe v | jp v | jm v
  | call v | cnz v | cz v | cnc v | cc v | cpo v | cpe v | cp v | cm v =>
    exact decodesBack_of_word v rfl rfl fun _ _ => rfl
  | rst n => cases n using fieldCode_cases <;> exact .one _ rfl rfl fun _ _ => rfl
  | unimplemented byte =>
    simp only [Instr.wellFormed, unimplementedBytes, List.contains_iff_mem, List.mem_cons,
      List.not_mem_nil, or_false] at wellFormed
    rcases wellFormed with rfl | rfl | rfl | rfl | rfl | rfl | rfl | rfl | rfl | rfl | rfl <;>
      exact .one _ rfl rfl fun _ _ => rfl
  | _ => exact .one _ rfl rfl fun _ _ => rfl

/-- Settles O1: by the three lengths. -/
theorem decodeOfEncodeIsTheInstruction : Obligations.DecodeOfEncodeIsTheInstruction := by
  unfold Obligations.DecodeOfEncodeIsTheInstruction
  intro i rest wellFormed
  cases decodesBack_of_wellFormed wellFormed with
  | one op bytes length decoded =>
    rw [bytes, ← decoded 0 0]
    exact decodeStream_of_length_one length rest
  | two op b2 bytes length decoded =>
    rw [bytes, ← decoded 0]
    exact decodeStream_of_length_two length b2 rest
  | three op b2 b3 bytes length decoded =>
    rw [bytes, ← decoded]
    exact decodeStream_of_length_three length b2 b3 rest

/-! ## What any bytes decode to (rules R81, R84, R95) -/

@[simp] theorem wordBytes_wordOf (hi lo : Byte) : wordBytes (wordOf hi lo) = [lo, hi] := by
  simp [wordBytes]

/-- What the bytes decode to is well-formed, and its encoding is the bytes its opcode byte needs. -/
def EncodesBack (op b2 b3 : Byte) : Prop :=
  (decode op b2 b3).wellFormed = true ∧
    encode (decode op b2 b3) = [op, b2, b3].take (opcodeLength op)

/-- Bytes whose instruction is a well-formed one of three bytes with the word of the operand bytes. -/
theorem encodesBack_of_word {op b2 b3 : Byte} {i : Instr} (decoded : decode op b2 b3 = i)
    (wellFormed : i.wellFormed = true) (bytes : encode i = op :: wordBytes (wordOf b3 b2))
    (length : opcodeLength op = 3) : EncodesBack op b2 b3 := by
  rw [wordBytes_wordOf] at bytes
  exact ⟨decoded ▸ wellFormed, by rw [decoded, bytes, length]; rfl⟩

/-! Quadrants `00` and `11` have columns in which some rows take a word (rules R91, R94). -/

/-- LXI in the even rows, DAD in the odd ones. -/
theorem encodesBack_lxi_column (mid : BitVec 3) (b2 b3 : Byte) :
    EncodesBack (0b00#2 ++ mid ++ 1#3 : BitVec 8) b2 b3 := by
  cases mid using fieldCode_cases
  case code0 | code2 | code4 | code6 => exact encodesBack_of_word rfl rfl rfl rfl
  all_goals exact ⟨rfl, rfl⟩

/-- STAX and LDAX, and then the four direct forms. -/
theorem encodesBack_direct_column (mid : BitVec 3) (b2 b3 : Byte) :
    EncodesBack (0b00#2 ++ mid ++ 2#3 : BitVec 8) b2 b3 := by
  cases mid using fieldCode_cases
  case code4 | code5 | code6 | code7 => exact encodesBack_of_word rfl rfl rfl rfl
  all_goals exact ⟨rfl, rfl⟩

theorem encodesBack_jump_column (mid : BitVec 3) (b2 b3 : Byte) :
    EncodesBack (0b11#2 ++ mid ++ 2#3 : BitVec 8) b2 b3 := by
  cases mid using fieldCode_cases <;> exact encodesBack_of_word rfl rfl rfl rfl

/-- JMP, and bytes without a word. -/
theorem encodesBack_jmp_column (mid : BitVec 3) (b2 b3 : Byte) :
    EncodesBack (0b11#2 ++ mid ++ 3#3 : BitVec 8) b2 b3 := by
  cases mid using fieldCode_cases
  case code0 => exact encodesBack_of_word rfl rfl rfl rfl
  all_goals exact ⟨rfl, rfl⟩

theorem encodesBack_conditionalCall_column (mid : BitVec 3) (b2 b3 : Byte) :
    EncodesBack (0b11#2 ++ mid ++ 4#3 : BitVec 8) b2 b3 := by
  cases mid using fieldCode_cases <;> exact encodesBack_of_word rfl rfl rfl rfl

/-- CALL in row 1, PUSH and bytes with no instruction in the others. -/
theorem encodesBack_call_column (mid : BitVec 3) (b2 b3 : Byte) :
    EncodesBack (0b11#2 ++ mid ++ 5#3 : BitVec 8) b2 b3 := by
  cases mid using fieldCode_cases
  case code1 => exact encodesBack_of_word rfl rfl rfl rfl
  all_goals exact ⟨rfl, rfl⟩

theorem encodesBack_quadrant0 (mid low : BitVec 3) (b2 b3 : Byte) :
    EncodesBack (0b00#2 ++ mid ++ low : BitVec 8) b2 b3 := by
  cases low using fieldCode_cases
  case code1 => exact encodesBack_lxi_column mid b2 b3
  case code2 => exact encodesBack_direct_column mid b2 b3
  all_goals cases mid using fieldCode_cases <;> exact ⟨rfl, rfl⟩

/-- MOV, HLT and the register and M forms of the accumulator group have no operand byte. -/
theorem encodesBack_quadrant1_quadrant2 {q : BitVec 2} (middle : q = 1 ∨ q = 2)
    (mid low : BitVec 3) (b2 b3 : Byte) : EncodesBack (q ++ mid ++ low : BitVec 8) b2 b3 := by
  rcases middle with rfl | rfl <;> cases mid using fieldCode_cases <;>
    cases low using fieldCode_cases <;> exact ⟨rfl, rfl⟩

theorem encodesBack_quadrant3 (mid low : BitVec 3) (b2 b3 : Byte) :
    EncodesBack (0b11#2 ++ mid ++ low : BitVec 8) b2 b3 := by
  cases low using fieldCode_cases
  case code2 => exact encodesBack_jump_column mid b2 b3
  case code3 => exact encodesBack_jmp_column mid b2 b3
  case code4 => exact encodesBack_conditionalCall_column mid b2 b3
  case code5 => exact encodesBack_call_column mid b2 b3
  all_goals cases mid using fieldCode_cases <;> exact ⟨rfl, rfl⟩

theorem encodesBack (op b2 b3 : Byte) : EncodesBack op b2 b3 := by
  induction op using opcode_induction with
  | fields q mid low =>
    cases q using pairCode_cases with
    | code0 => exact encodesBack_quadrant0 mid low b2 b3
    | code1 => exact encodesBack_quadrant1_quadrant2 (.inl rfl) mid low b2 b3
    | code2 => exact encodesBack_quadrant1_quadrant2 (.inr rfl) mid low b2 b3
    | code3 => exact encodesBack_quadrant3 mid low b2 b3

theorem decode_wellFormed (op b2 b3 : Byte) : (decode op b2 b3).wellFormed = true :=
  (encodesBack op b2 b3).left

/-- No other byte decodes to the instruction with this opcode byte. -/
theorem opcode_of_decode {op b2 b3 byte : Byte} {operands : List Byte} {i : Instr}
    (decoded : decode op b2 b3 = i) (bytes : encode i = byte :: operands) : op = byte := by
  have own_bytes : byte :: operands = [op, b2, b3].take (opcodeLength op) := by
    rw [← (encodesBack op b2 b3).right, decoded, bytes]
  cases length : opcodeLength op with
  | zero => simp [length] at own_bytes
  | succ n =>
    rw [length, List.take_succ_cons] at own_bytes
    exact (List.cons.inj own_bytes).left.symm

/-- Settles O2: quadrant by quadrant. -/
theorem encodeOfDecodeIsTheBytes : Obligations.EncodeOfDecodeIsTheBytes := by
  unfold Obligations.EncodeOfDecodeIsTheBytes
  exact encodesBack

/-- Settles O3: the two decoders agree on each quadrant, middle field and low field, and neither
looks at the operand bytes to choose the instruction. -/
theorem decoderFollowsTheCanonicalOrder : Obligations.DecoderFollowsTheCanonicalOrder := by
  unfold Obligations.DecoderFollowsTheCanonicalOrder
  intro op b2 b3
  induction op using opcode_induction with
  | fields q mid low =>
    cases q using pairCode_cases <;> cases mid using fieldCode_cases <;>
      cases low using fieldCode_cases <;> rfl

/-! ## The eleven bytes with no instruction (rule R100) -/

/-- The encoding of `unimplemented` is its byte, and the decoder reads it back. -/
theorem decode_of_mem_unimplementedBytes {byte : Byte} (listed : byte ∈ unimplementedBytes)
    (b2 b3 : Byte) : decode byte b2 b3 = .unimplemented byte := by
  have wellFormed : (Instr.unimplemented byte).wellFormed = true := List.contains_iff_mem.mpr listed
  cases decodesBack_of_wellFormed wellFormed with
  | one op bytes length decoded =>
    obtain rfl := List.singleton_inj.mp bytes
    exact decoded b2 b3
  | two op b2 bytes => cases bytes
  | three op b2 b3 bytes => cases bytes

theorem decode_eq_unimplemented_iff (op b2 b3 byte : Byte) :
    decode op b2 b3 = .unimplemented byte ↔ byte = op ∧ op ∈ unimplementedBytes := by
  constructor
  · intro decoded
    obtain rfl := eq_opcode_of_decode_unimplemented decoded
    have wellFormed := decode_wellFormed byte b2 b3
    rw [decoded, Instr.wellFormed, List.contains_iff_mem] at wellFormed
    exact ⟨rfl, wellFormed⟩
  · rintro ⟨rfl, listed⟩
    exact decode_of_mem_unimplementedBytes listed b2 b3

/-- Settles O4: the obligation's list is `unimplementedBytes`. -/
theorem unimplementedBytesAreTheEleven : Obligations.UnimplementedBytesAreTheEleven := by
  unfold Obligations.UnimplementedBytesAreTheEleven
  exact decode_eq_unimplemented_iff

/-- Settles O5: the decoder evaluates on each opcode byte, whatever the operand bytes are. -/
theorem wordsOfEveryFamilyDecode : Obligations.WordsOfEveryFamilyDecode := by
  unfold Obligations.WordsOfEveryFamilyDecode
  intro b2 b3
  exact ⟨rfl, rfl, rfl, rfl, rfl, rfl, rfl, rfl, rfl, rfl, rfl, rfl, rfl⟩

/-! ## The instruction at PC (rules R82, R293) -/

theorem fetchInstr_of_bytes {i : Instr} {s : State} (wellFormed : i.wellFormed = true)
    (stored : ∀ (k : Nat) (inside : k < (encode i).length),
      s.readMem (s.pc + BitVec.ofNat 16 k) = (encode i)[k]) : s.fetchInstr = i := by
  cases decodesBack_of_wellFormed wellFormed with
  | one op bytes length decoded =>
    have opcode : s.readMem s.pc = op := by simpa [bytes] using stored 0
    rw [State.fetchInstr, opcode, decoded]
  | two op b2 bytes length decoded =>
    have opcode : s.readMem s.pc = op := by simpa [bytes] using stored 0
    have second : s.readMem (s.pc + 1) = b2 := by simpa [bytes] using stored 1
    rw [State.fetchInstr, opcode, second, decoded]
  | three op b2 b3 bytes length decoded =>
    have opcode : s.readMem s.pc = op := by simpa [bytes] using stored 0
    have second : s.readMem (s.pc + 1) = b2 := by simpa [bytes] using stored 1
    have third : s.readMem (s.pc + 2) = b3 := by simpa [bytes] using stored 2
    rw [State.fetchInstr, opcode, second, third, decoded]

/-- Settles O6: a running core executes what it fetched. -/
theorem stepRunsTheInstructionAtPc : Obligations.StepRunsTheInstructionAtPc := by
  unfold Obligations.StepRunsTheInstructionAtPc
  intro i s wellFormed running stored
  rw [step_of_running running, fetchInstr_of_bytes wellFormed stored]

end Sys2Proof.Machine
end

section
/-! The data transfer instructions but MVI M (spec/40_data_transfer.md). -/

namespace Sys2Proof.Machine

open Sys2Proof.Safety

/-! ## The meaning of each instruction (rules R120 to R123, R125 to R132) -/

theorem exec_movRR (dst src : Reg) (s : State) :
    exec (.movRR dst src) s = (s.setReg dst (s.getReg src)).advance 1 := rfl

theorem exec_movRM (dst : Reg) (s : State) :
    exec (.movRM dst) s = (s.setReg dst (s.readMem s.hl)).advance 1 := rfl

theorem exec_movMR (src : Reg) (s : State) :
    exec (.movMR src) s = (s.writeMem s.hl (s.getReg src)).advance 1 := rfl

theorem exec_mviR (dst : Reg) (imm : Byte) (s : State) :
    exec (.mviR dst imm) s = (s.setReg dst imm).advance 2 := rfl

theorem exec_lxi (pair : RegPair) (imm16 : Word) (s : State) :
    exec (.lxi pair imm16) s = (s.writePair pair imm16).advance 3 := rfl

theorem exec_lda (addr : Word) (s : State) :
    exec (.lda addr) s = (s.setReg .a (s.readMem addr)).advance 3 := rfl

theorem exec_sta (addr : Word) (s : State) :
    exec (.sta addr) s = (s.writeMem addr (s.getReg .a)).advance 3 := rfl

theorem exec_ldax (pair : IndexPair) (s : State) :
    exec (.ldax pair) s = (s.setReg .a (s.readMem (s.indexAddress pair))).advance 1 := rfl

theorem exec_stax (pair : IndexPair) (s : State) :
    exec (.stax pair) s = (s.writeMem (s.indexAddress pair) (s.getReg .a)).advance 1 := rfl

theorem exec_lhld (addr : Word) (s : State) :
    exec (.lhld addr) s =
      ((s.setReg .l (s.readMem addr)).setReg .h (s.readMem (addr + 1))).advance 3 := rfl

theorem exec_shld (addr : Word) (s : State) :
    exec (.shld addr) s =
      ((s.writeMem addr (s.getReg .l)).writeMem (addr + 1) (s.getReg .h)).advance 3 := rfl

theorem exec_xchg (s : State) :
    exec .xchg s =
      ((s.setPairOf .h .l (s.pairOf .d .e)).setPairOf .d .e (s.pairOf .h .l)).advance 1 := rfl

/-! ## Weaker results -/

theorem completes_imp {i : Instr} {s : State} {pc : Word} {changed : List Part}
    {result weaker : State → Prop} (h : Completes i s pc changed result)
    (imp : ∀ t, result t → weaker t) : Completes i s pc changed weaker := by
  obtain ⟨t, executes, pc_eq, frame, computed⟩ := h
  exact ⟨t, executes, pc_eq, frame, imp t computed⟩

/-! ## One register, one cell or one pair written -/

theorem completes_of_setReg {i : Instr} {s : State} {r : Reg} {v : Byte} {n : Word}
    (meaning : exec i s = (s.setReg r v).advance n) :
    Completes i s (s.pc + n) [.reg r] fun t => t.getReg r = v :=
  completes_of_advance meaning rfl (setReg_frame s r v) (by simp)

theorem completes_of_writeMem {i : Instr} {s : State} {a : Word} {v : Byte} {n : Word}
    (meaning : exec i s = (s.writeMem a v).advance n) :
    Completes i s (s.pc + n) [.cell a] fun t => t.readMem a = v :=
  completes_of_advance meaning rfl (writeMem_frame s a v) (by simp)

@[simp] theorem pairValue_setPc (s : State) (pc : Word) (pair : RegPair) :
    pairValue (s.setPc pc) pair = pairValue s pair := by
  cases pair <;> rfl

theorem pairValue_writePair (s : State) (pair : RegPair) (v : Word) :
    pairValue (s.writePair pair v) pair = v := by
  rw [← State.readPair_eq, s.readPair_writePair]

theorem completes_of_writePair {i : Instr} {s : State} {pair : RegPair} {v n : Word}
    (meaning : exec i s = (s.writePair pair v).advance n) :
    Completes i s (s.pc + n) (pairParts pair) fun t => pairValue t pair = v :=
  completes_of_advance meaning (s.writePair_pc pair v) (writePair_frame s pair v)
    (by rw [pairValue_setPc, pairValue_writePair])

/-! ## The obligations -/

/-- Settles O25: MOV between registers writes one register. -/
theorem movRegisterToRegister : Obligations.MovRegisterToRegister := by
  unfold Obligations.MovRegisterToRegister
  exact fun dst src s => completes_of_setReg (exec_movRR dst src s)

/-- Settles O26: each writes one register with the byte at its address. -/
theorem loadsFromMemory : Obligations.LoadsFromMemory := by
  unfold Obligations.LoadsFromMemory
  refine ⟨fun dst s => ?movRM, fun addr s => completes_of_setReg (exec_lda addr s),
    fun pair s => ?ldax⟩
  case movRM =>
    rw [← s.hl_eq_hlOf]
    exact completes_of_setReg (exec_movRM dst s)
  case ldax =>
    rw [← s.indexAddress_eq]
    exact completes_of_setReg (exec_ldax pair s)

/-- Settles O27: each writes the one cell at its address. -/
theorem storesToMemory : Obligations.StoresToMemory := by
  unfold Obligations.StoresToMemory
  refine ⟨fun src s => ?movMR, fun addr s => completes_of_writeMem (exec_sta addr s),
    fun pair s => ?stax⟩
  case movMR =>
    rw [← s.hl_eq_hlOf]
    exact completes_of_writeMem (exec_movMR src s)
  case stax =>
    rw [← s.indexAddress_eq]
    exact completes_of_writeMem (exec_stax pair s)

/-- Settles O29: MVI writes one register and LXI one pair. -/
theorem immediateLoads : Obligations.ImmediateLoads := by
  unfold Obligations.ImmediateLoads
  exact ⟨fun dst imm s => completes_of_setReg (exec_mviR dst imm s),
    fun pair imm16 s => completes_of_writePair (exec_lxi pair imm16 s)⟩

/-- Settles O30: the two cells are distinct at every address, the last one included. -/
theorem lhldAndShld : Obligations.LhldAndShld := by
  unfold Obligations.LhldAndShld
  refine ⟨fun addr s => ?lhld, fun addr s => ?shld⟩
  case lhld =>
    exact completes_of_advance (exec_lhld addr s) rfl
      (((setReg_frame s .l _).trans (setReg_frame _ .h _)).mono (by simp)) (by simp)
  case shld =>
    exact completes_of_advance (exec_shld addr s) rfl
      ((writeMem_frame s addr _).trans (writeMem_frame _ (addr + 1) _)) (by simp)

/-- Settles O31: both pairs are read before either is written. -/
theorem xchgExchangesHlAndDe : Obligations.XchgExchangesHlAndDe := by
  unfold Obligations.XchgExchangesHlAndDe
  intro s
  exact completes_of_advance (exec_xchg s) rfl
    (((setPairOf_frame s .h .l _).trans (setPairOf_frame _ .d .e _)).mono (by simp))
    (by simp [State.pairOf])

/-- Settles O24: each LDA reads the cell that SHLD wrote last at its address. -/
theorem storedWordReadsBackByBytes : Obligations.StoredWordReadsBackByBytes := by
  unfold Obligations.StoredWordReadsBackByBytes
  intro addr s
  refine ⟨_, _, _, exec_shld addr s, exec_lda addr _, exec_lda (addr + 1) _, ?_, ?_⟩ <;> simp

end Sys2Proof.Machine
end

section
/-! Accumulator arithmetic (spec/41_arithmetic_logic.md): the subtract kind and the comparisons. -/

namespace Sys2Proof.Machine

open Sys2Proof.Safety

/-! ## The meaning of each instruction (rules R162, R163, R167, R172, R173, R177) -/

theorem exec_sub (src : Operand) (s : State) :
    exec (.sub src) s = (s.subFromA (s.readOperand src) false).advance 1 := rfl

theorem exec_sbb (src : Operand) (s : State) :
    exec (.sbb src) s = (s.subFromA (s.readOperand src) (s.flag .cy)).advance 1 := rfl

theorem exec_cmp (src : Operand) (s : State) :
    exec (.cmp src) s = (s.compareA (s.readOperand src) false).advance 1 := rfl

theorem exec_sui (imm : Byte) (s : State) :
    exec (.sui imm) s = (s.subFromA imm false).advance 2 := rfl

theorem exec_sbi (imm : Byte) (s : State) :
    exec (.sbi imm) s = (s.subFromA imm (s.flag .cy)).advance 2 := rfl

theorem exec_cpi (imm : Byte) (s : State) :
    exec (.cpi imm) s = (s.compareA imm false).advance 2 := rfl

/-! ## The two kinds, whatever the operand form (rules R151, R153) -/

@[simp] theorem borrowFlags_setPc (s t : State) (b : Byte) (c : Nat) (pc : Word) :
    BorrowFlags s b c (t.setPc pc) ↔ BorrowFlags s b c t := Iff.rfl

@[simp] theorem subtractedFromA_setPc (s t : State) (b : Byte) (c : Nat) (pc : Word) :
    SubtractedFromA s b c (t.setPc pc) ↔ SubtractedFromA s b c t := Iff.rfl

theorem completes_of_subFromA {i : Instr} {s : State} {b : Byte} {c : Bool} {n : Word}
    (meaning : exec i s = (s.subFromA b c).advance n) :
    Completes i s (s.pc + n) (.reg .a :: allFlags) (SubtractedFromA s b c.toNat) :=
  completes_of_advance meaning (s.subFromA_pc b c) (subFromA_frame s b c)
    ((subtractedFromA_setPc ..).mpr (s.subFromA_spec b c))

/-- A difference without a borrow in is zero exactly for equal operands. -/
theorem zero_iff_of_borrowFlags {s t : State} {b : Byte} (flags : BorrowFlags s b 0 t) :
    t.flag .z = true ↔ s.getReg .a = b := by
  obtain ⟨⟨-, zero, -⟩, -, -⟩ := flags
  have := (s.getReg .a).isLt
  have := b.isLt
  rw [zero, decide_eq_true_iff, ← BitVec.toNat_inj]
  omega

theorem carry_iff_of_borrowFlags {s t : State} {b : Byte} (flags : BorrowFlags s b 0 t) :
    t.flag .cy = true ↔ s.getReg .a < b := by
  obtain ⟨-, carry, -⟩ := flags
  rw [carry, decide_eq_true_iff, BitVec.lt_def, Nat.add_zero]

/-- A comparison: the flags of the difference, and what Z and CY say of the operands (rule R167). -/
theorem completes_of_compareA {i : Instr} {s : State} {b : Byte} {n : Word}
    (meaning : exec i s = (s.compareA b false).advance n) :
    Completes i s (s.pc + n) allFlags fun t =>
      BorrowFlags s b 0 t ∧ (t.flag .z = true ↔ s.getReg .a = b) ∧
        (t.flag .cy = true ↔ s.getReg .a < b) := by
  have flags : BorrowFlags s b 0 ((s.compareA b false).setPc (s.pc + n)) :=
    (borrowFlags_setPc ..).mpr (s.compareA_spec b false)
  exact completes_of_advance meaning (s.compareA_pc b false) (compareA_frame s b false)
    ⟨flags, zero_iff_of_borrowFlags flags, carry_iff_of_borrowFlags flags⟩

/-! ## The obligations -/

/-- Settles O33: all four are the subtract kind, with the old CY or 0 as the borrow in. -/
theorem subtractKind : Obligations.SubtractKind := by
  unfold Obligations.SubtractKind
  refine ⟨fun src s => ?registerOrM, fun imm s => ?immediate⟩
  case registerOrM =>
    rw [← s.readOperand_eq src]
    exact ⟨completes_of_subFromA (exec_sub src s), completes_of_subFromA (exec_sbb src s)⟩
  case immediate =>
    exact ⟨completes_of_subFromA (exec_sui imm s), completes_of_subFromA (exec_sbi imm s)⟩

/-- Settles O35: both are the comparison of A with the second operand. -/
theorem compareKind : Obligations.CompareKind := by
  unfold Obligations.CompareKind
  refine ⟨fun src s => ?registerOrM, fun imm s => completes_of_compareA (exec_cpi imm s)⟩
  rw [← s.readOperand_eq src]
  exact completes_of_compareA (exec_cmp src s)

end Sys2Proof.Machine
end

section
/-! Increment, decrement, DAD, DAA, the rotates, CMA, STC and CMC
(spec/42_incdec_dad_daa_rotate.md). -/

namespace Sys2Proof.Machine

open Sys2Proof.Safety

/-! ## The meaning of each instruction (rules R200, R202 to R214) -/

theorem exec_inrR (dst : Reg) (s : State) :
    exec (.inrR dst) s = ((s.setReg dst (addResult (s.getReg dst) 1 false)).setF
      (incFlags s.f (s.getReg dst))).advance 1 := rfl

theorem exec_dcrR (dst : Reg) (s : State) :
    exec (.dcrR dst) s = ((s.setReg dst (subResult (s.getReg dst) 1 false)).setF
      (decFlags s.f (s.getReg dst))).advance 1 := rfl

theorem exec_dcrM (s : State) :
    exec .dcrM s = ((s.writeMem s.hl (subResult (s.readMem s.hl) 1 false)).setF
      (decFlags s.f (s.readMem s.hl))).advance 1 := rfl

theorem exec_inx (pair : RegPair) (s : State) :
    exec (.inx pair) s = (s.writePair pair (s.readPair pair + 1)).advance 1 := rfl

theorem exec_dcx (pair : RegPair) (s : State) :
    exec (.dcx pair) s = (s.writePair pair (s.readPair pair - 1)).advance 1 := rfl

theorem exec_dad (pair : RegPair) (s : State) :
    exec (.dad pair) s = ((s.setPairOf .h .l (s.hl + s.readPair pair)).setF
      (setFlag s.f .cy (dadCy s.hl (s.readPair pair)))).advance 1 := rfl

theorem exec_daa (s : State) :
    exec .daa s =
      ((s.setReg .a (s.getReg .a + daaAdjust (s.getReg .a) (s.flag .ac) (s.flag .cy))).setF
        (daaFlags s.f (s.getReg .a))).advance 1 := rfl

theorem exec_rlc (s : State) :
    exec .rlc s = (s.rotateA ((s.getReg .a).extractLsb' 0 7 ++ (s.getReg .a).extractLsb' 7 1)
      ((s.getReg .a).getLsbD 7)).advance 1 := rfl

theorem exec_rrc (s : State) :
    exec .rrc s = (s.rotateA ((s.getReg .a).extractLsb' 0 1 ++ (s.getReg .a).extractLsb' 1 7)
      ((s.getReg .a).getLsbD 0)).advance 1 := rfl

theorem exec_ral (s : State) :
    exec .ral s = (s.rotateA ((s.getReg .a).extractLsb' 0 7 ++ BitVec.ofBool (s.flag .cy))
      ((s.getReg .a).getLsbD 7)).advance 1 := rfl

theorem exec_rar (s : State) :
    exec .rar s = (s.rotateA (BitVec.ofBool (s.flag .cy) ++ (s.getReg .a).extractLsb' 1 7)
      ((s.getReg .a).getLsbD 0)).advance 1 := rfl

theorem exec_cma (s : State) :
    exec .cma s = (s.setReg .a (s.getReg .a ^^^ 0xFF)).advance 1 := rfl

theorem exec_stc (s : State) :
    exec .stc s = (s.setF (setFlag s.f .cy true)).advance 1 := rfl

theorem exec_cmc (s : State) :
    exec .cmc s = (s.setF (setFlag s.f .cy (!s.flag .cy))).advance 1 := rfl

/-! ## INR and DCR (rules R155, R200, R202, R203) -/

theorem getFlag_decFlags (f v : Byte) (g : Flag) :
    getFlag (decFlags f v) g =
      if g = .ac then subAc v 1 false else getFlag (setSZP f (subResult v 1 false)) g :=
  getFlag_setFlag ..

/-- Subtracting 1 borrows out of bit 3 exactly when the low nibble is empty. -/
theorem subAc_one (v : Byte) : subAc v 1 false = decide (v.toNat % 16 = 0) := by
  have one : lowNibble 1 = 1 := by decide
  rw [subAc, one, lowNibble, Bool.toNat_false, decide_eq_decide]
  omega

theorem subResult_one_toNat (v : Byte) :
    (subResult v 1 false).toNat = (v.toNat + 255) % 256 := by
  have difference := subResult_toNat v 1 false
  have one : (1 : Byte).toNat = 1 := rfl
  rw [one, Bool.toNat_false] at difference
  omega

/-- What DCR's flags say of the value `v` before the decrement, in any state that holds them. -/
theorem signZeroParity_and_ac_of_decFlags {t : State} {f v : Byte} (flags : t.f = decFlags f v) :
    SignZeroParity t (subResult v 1 false).toNat ∧ t.flag .ac = decide (v.toNat % 16 = 0) := by
  have flag_eq (g : Flag) : t.flag g = getFlag (decFlags f v) g := by rw [State.flag, flags]
  constructor
  · apply signZeroParity_of <;> simp [flag_eq, getFlag_decFlags, getFlag_setSZP]
  · rw [flag_eq, getFlag_decFlags, if_pos rfl, subAc_one]

theorem inrR_completes (dst : Reg) (s : State) :
    Completes (.inrR dst) s (s.pc + 1) (.reg dst :: flagsLessCy) fun t =>
      t.getReg dst = addResult (s.getReg dst) 1 false ∧ t.f = incFlags s.f (s.getReg dst) :=
  completes_of_advance (exec_inrR dst s) rfl
    ((setReg_frame s dst _).trans (incFlags_frame _ _)) ⟨by simp, rfl⟩

theorem dcrR_completes (dst : Reg) (s : State) :
    Completes (.dcrR dst) s (s.pc + 1) (.reg dst :: flagsLessCy) fun t =>
      t.getReg dst = subResult (s.getReg dst) 1 false ∧ t.f = decFlags s.f (s.getReg dst) :=
  completes_of_advance (exec_dcrR dst s) rfl
    ((setReg_frame s dst _).trans (decFlags_frame _ _)) ⟨by simp, rfl⟩

theorem dcrM_completes (s : State) :
    Completes .dcrM s (s.pc + 1) (.cell s.hl :: flagsLessCy) fun t =>
      t.readMem s.hl = subResult (s.readMem s.hl) 1 false ∧ t.f = decFlags s.f (s.readMem s.hl) :=
  completes_of_advance (exec_dcrM s) rfl
    ((writeMem_frame s s.hl _).trans (decFlags_frame _ _)) ⟨by simp, rfl⟩

/-- Settles O36: the flags are the increment's and the decrement's. -/
theorem incrementAndDecrementRegister : Obligations.IncrementAndDecrementRegister := by
  unfold Obligations.IncrementAndDecrementRegister
  refine fun dst s => ⟨completes_imp (inrR_completes dst s) fun t ⟨value, flags⟩ => ?inr,
    completes_imp (dcrR_completes dst s) fun t ⟨value, flags⟩ => ?dcr⟩
  case inr =>
    rw [value]
    exact ⟨addResult_toNat .., signZeroParity_and_ac_of_incFlags flags⟩
  case dcr =>
    rw [value]
    exact ⟨subResult_one_toNat _, signZeroParity_and_ac_of_decFlags flags⟩

/-- Settles O38: as DCR r, on the cell at HL. -/
theorem decrementMemory : Obligations.DecrementMemory := by
  unfold Obligations.DecrementMemory
  intro s
  rw [← s.hl_eq_hlOf]
  refine completes_imp (dcrM_completes s) fun t ⟨value, flags⟩ => ?_
  rw [value]
  exact ⟨subResult_one_toNat _, signZeroParity_and_ac_of_decFlags flags⟩

/-! ## INX, DCX and DAD (rules R204 to R206) -/

/-- Settles O39: each writes the pair with its own value plus or minus 1. -/
theorem incrementAndDecrementPair : Obligations.IncrementAndDecrementPair := by
  unfold Obligations.IncrementAndDecrementPair
  refine fun pair s =>
    ⟨completes_imp (completes_of_writePair (exec_inx pair s)) fun t value => ?inx,
    completes_imp (completes_of_writePair (exec_dcx pair s)) fun t value => ?dcx⟩
  case inx =>
    rw [value, s.readPair_eq, BitVec.toNat_add]
    rfl
  case dcx =>
    rw [value, s.readPair_eq, BitVec.toNat_sub, Nat.add_comm]
    rfl

theorem dad_completes (pair : RegPair) (s : State) :
    Completes (.dad pair) s (s.pc + 1) [.reg .h, .reg .l, .flag .cy] fun t =>
      t.hl = s.hl + s.readPair pair ∧ t.flag .cy = dadCy s.hl (s.readPair pair) :=
  completes_of_advance (exec_dad pair s) rfl
    ((setPairOf_frame s .h .l _).trans (setFlag_frame _ .cy _))
    ⟨by simp [State.hl, State.pairOf], by simp⟩

/-- Settles O40: the 16-bit sum and its carry, over numbers. -/
theorem doubleAdd : Obligations.DoubleAdd := by
  unfold Obligations.DoubleAdd
  refine fun pair s => completes_imp (dad_completes pair s) fun t ⟨sum, carry⟩ => ?_
  rw [← t.hl_eq_hlOf, ← s.hl_eq_hlOf, ← s.readPair_eq, sum, carry]
  exact ⟨BitVec.toNat_add .., rfl⟩

/-! ## DAA (rule R207) -/

theorem daaLow_iff (a : Byte) (ac : Bool) :
    daaLow a ac = true ↔ ac = true ∨ 9 < a.toNat % 16 := by
  simp [daaLow, lowNibble]

theorem daaHigh_iff (a : Byte) (cy : Bool) :
    daaHigh a cy = true ↔
      cy = true ∨ 9 < a.toNat / 16 ∨ (9 ≤ a.toNat / 16 ∧ 9 < a.toNat % 16) := by
  simp [daaHigh, lowNibble, or_assoc]

theorem daaAdjust_toNat (a : Byte) (ac cy : Bool) :
    (daaAdjust a ac cy).toNat =
      (if daaLow a ac then 0x06 else 0) + (if daaHigh a cy then 0x60 else 0) := by
  unfold daaAdjust
  split <;> split <;> rfl

/-- Without an old CY, 0x60 is added exactly when the whole adjustment carries out of bit 7. -/
theorem daaHigh_eq_carry (a : Byte) (ac cy : Bool) :
    daaHigh a cy = (cy || decide (255 < a.toNat + (daaAdjust a ac cy).toNat)) := by
  cases cy with
  | true => rfl
  | false =>
    have low := daaLow_iff a ac
    have high := daaHigh_iff a false
    rw [Bool.false_or, Bool.eq_iff_iff, decide_eq_true_iff, daaAdjust_toNat]
    by_cases l : daaLow a ac = true <;> by_cases h : daaHigh a false = true <;>
      simp only [l, h, true_iff, false_iff, Bool.false_eq_true, false_or, if_true, if_false]
        at low high ⊢ <;> omega

theorem daa_completes (s : State) :
    Completes .daa s (s.pc + 1) (.reg .a :: allFlags) fun t =>
      t.getReg .a = s.getReg .a + daaAdjust (s.getReg .a) (s.flag .ac) (s.flag .cy) ∧
        t.f = daaFlags s.f (s.getReg .a) :=
  completes_of_advance (exec_daa s) rfl
    ((setReg_frame s .a _).trans (daaFlags_frame _ _)) ⟨by simp, rfl⟩

/-- What DAA's flags say of the value `a` before the adjustment, in any state that holds them. -/
theorem flags_of_daaFlags {t : State} {f a adj : Byte} (flags : t.f = daaFlags f a)
    (adj_eq : adj = daaAdjust a (getFlag f .ac) (getFlag f .cy)) :
    SignZeroParity t (a + adj).toNat ∧ t.flag .ac = addAc a adj false ∧
      t.flag .cy = daaHigh a (getFlag f .cy) := by
  subst adj_eq
  have flag_eq (g : Flag) : t.flag g = getFlag (daaFlags f a) g := by rw [State.flag, flags]
  refine ⟨?_, ?_, ?_⟩
  · apply signZeroParity_of <;> simp [flag_eq, daaFlags, getFlag_setCarries, getFlag_setSZP]
  · simp [flag_eq, daaFlags, getFlag_setCarries]
  · simp [flag_eq, daaFlags, getFlag_setCarries]

/-- Settles O41: the four cases are those of the two conditions of the adjustment. -/
theorem decimalAdjust : Obligations.DecimalAdjust := by
  unfold Obligations.DecimalAdjust
  refine fun s => completes_imp (daa_completes s) fun t ⟨value, flags⟩ => ?_
  have low := daaLow_iff (s.getReg .a) (s.flag .ac)
  have high := daaHigh_iff (s.getReg .a) (s.flag .cy)
  obtain ⟨signZeroParity, ac, cy⟩ := flags_of_daaFlags flags rfl
  refine ⟨(daaAdjust (s.getReg .a) (s.flag .ac) (s.flag .cy)).toNat, fun ⟨l, h⟩ => ?_,
    fun ⟨l, h⟩ => ?_, fun ⟨l, h⟩ => ?_, fun ⟨l, h⟩ => ?_, ?_, ?_, ac, ?_, ?_⟩
  · rw [daaAdjust_toNat, if_pos (low.mpr l), if_pos (high.mpr h)]
  · rw [daaAdjust_toNat, if_pos (low.mpr l), if_neg (mt high.mp h)]
  · rw [daaAdjust_toNat, if_neg (mt low.mp l), if_pos (high.mpr h)]
  · rw [daaAdjust_toNat, if_neg (mt low.mp l), if_neg (mt high.mp h)]
  · rw [value, BitVec.toNat_add]
  · rw [BitVec.toNat_add] at signZeroParity
    exact signZeroParity
  · rw [cy]
    exact high
  · rw [cy]
    exact daaHigh_eq_carry ..

/-! ## Packed decimal (rules R152, R161, R207) -/

theorem bcd_toNat {n : Nat} (h : n < 100) : (bcd n).toNat = n / 10 * 16 + n % 10 := by
  rw [bcd, BitVec.toNat_ofNat, Nat.mod_eq_of_lt (by omega)]

/-- The binary sum `a` of two packed decimal bytes, from their digit sums `tens` and `ones`, after
the adjustment: each condition of the adjustment is a decimal carry. -/
theorem adjusted_digit_sums {tens ones a adj : Nat} {low high : Prop} (htens : tens ≤ 18)
    (hones : ones ≤ 19) (sum : a = (16 * tens + ones) % 256)
    (low_iff : low ↔ 15 < ones ∨ 9 < a % 16)
    (high_iff : high ↔ 255 < 16 * tens + ones ∨ 9 < a / 16 ∨ (9 ≤ a / 16 ∧ 9 < a % 16))
    (both : low ∧ high → adj = 0x66) (onlyLow : low ∧ ¬high → adj = 0x06)
    (onlyHigh : ¬low ∧ high → adj = 0x60) (neither : ¬low ∧ ¬high → adj = 0) :
    (a + adj) % 256 = (10 * tens + ones) % 100 / 10 * 16 + (10 * tens + ones) % 100 % 10 ∧
      (high ↔ 100 ≤ 10 * tens + ones) := by
  have low_carry : low ↔ 10 ≤ ones := by rw [low_iff]; omega
  have high_carry : high ↔ 100 ≤ 10 * tens + ones := by rw [high_iff]; omega
  refine ⟨?_, high_carry⟩
  rw [low_carry, high_carry] at both onlyLow onlyHigh neither
  by_cases l : 10 ≤ ones <;> by_cases h : 100 ≤ 10 * tens + ones
  · have digits : (10 * tens + ones) % 100 = 10 * (tens - 9) + (ones - 10) := by omega
    have := both ⟨l, h⟩
    omega
  · have digits : (10 * tens + ones) % 100 = 10 * (tens + 1) + (ones - 10) := by omega
    have := onlyLow ⟨l, h⟩
    omega
  · have digits : (10 * tens + ones) % 100 = 10 * (tens - 10) + ones := by omega
    have := onlyHigh ⟨l, h⟩
    omega
  · have digits : (10 * tens + ones) % 100 = 10 * tens + ones := by omega
    have := neither ⟨l, h⟩
    omega

/-- DAA after the add kind on two packed decimal bytes and a carry. -/
theorem daa_after_add_of_bcd {x y c : Nat} {s t : State} {b : Byte} (hx : x < 100) (hy : y < 100)
    (hc : c ≤ 1) (a_eq : s.getReg .a = bcd x) (b_eq : b = bcd y) (added : AddedToA s b c t) :
    ∃ u, exec .daa t = .next u ∧ u.getReg .a = bcd ((x + y + c) % 100) ∧
      u.flag .cy = decide (100 ≤ x + y + c) := by
  obtain ⟨sum, -, cy, ac⟩ := added
  obtain ⟨u, executes, -, -, adj, both, onlyLow, onlyHigh, neither, value, -, -, high, -⟩ :=
    decimalAdjust t
  have decimal_sum : x + y + c = 10 * (x / 10 + y / 10) + (x % 10 + y % 10 + c) := by omega
  have binary_sum : (s.getReg .a).toNat + b.toNat + c =
      16 * (x / 10 + y / 10) + (x % 10 + y % 10 + c) := by
    rw [a_eq, b_eq, bcd_toNat hx, bcd_toNat hy]
    omega
  have low_sum : (s.getReg .a).toNat % 16 + b.toNat % 16 + c = x % 10 + y % 10 + c := by
    rw [a_eq, b_eq, bcd_toNat hx, bcd_toNat hy]
    omega
  rw [binary_sum] at sum cy
  rw [low_sum] at ac
  obtain ⟨adjusted, carry⟩ := adjusted_digit_sums (by omega) (by omega) sum
    (by rw [ac, decide_eq_true_iff]) (by rw [cy, decide_eq_true_iff]) both onlyLow onlyHigh neither
  rw [decimal_sum]
  refine ⟨u, executes, BitVec.eq_of_toNat_eq ?_, Bool.eq_iff_iff.mpr ?_⟩
  · rw [value, adjusted, bcd_toNat (Nat.mod_lt _ (by omega))]
  · rw [high, carry, decide_eq_true_iff]

/-- Settles O42: after ADC and ADD alike, DAA corrects the sum that the add kind leaves. -/
theorem decimalAdditionIsExact : Obligations.DecimalAdditionIsExact := by
  unfold Obligations.DecimalAdditionIsExact
  intro x y src s hx hy a_eq b_eq
  obtain ⟨⟨t, add, -, -, added⟩, v, adc, -, -, addedWithCarry⟩ := (addKind.left src s).right.right
  exact ⟨⟨v, (daa_after_add_of_bcd hx hy (Bool.toNat_le _) a_eq b_eq addedWithCarry).imp
      fun u h => ⟨adc, h⟩⟩,
    t, (daa_after_add_of_bcd hx hy (Nat.zero_le 1) a_eq b_eq added).imp fun u h => ⟨add, h⟩⟩

/-! ## The rotates (rules R208 to R211) -/

theorem completes_of_rotateA {i : Instr} {s : State} {res : Byte} {cy : Bool} {n : Word}
    (meaning : exec i s = (s.rotateA res cy).advance n) :
    Completes i s (s.pc + n) [.reg .a, .flag .cy] fun t => t.getReg .a = res ∧ t.flag .cy = cy :=
  completes_of_advance meaning (s.rotateA_pc res cy) (rotateA_frame s res cy)
    (by simp [State.rotateA])

theorem getLsbD_zero (v : Byte) : v.getLsbD 0 = decide (v.toNat % 2 = 1) := by
  revert v; decide

theorem bitSeven_toNat (v : Byte) : (v.extractLsb' 7 1).toNat = v.toNat / 128 := by
  revert v; decide

theorem bitZero_toNat (v : Byte) : (v.extractLsb' 0 1).toNat = v.toNat % 2 := by
  revert v; decide

/-- One position to the left, `x` entering at bit 0. -/
theorem shiftedLeft_toNat (v : Byte) (x : BitVec 1) :
    (v.extractLsb' 0 7 ++ x).toNat = v.toNat * 2 % 256 + x.toNat := by
  revert v x; decide

/-- One position to the right, `x` entering at bit 7. -/
theorem shiftedRight_toNat (v : Byte) (x : BitVec 1) :
    (x ++ v.extractLsb' 1 7).toNat = v.toNat / 2 + x.toNat * 128 := by
  revert v x; decide

/-- Settles O43: each result is A shifted by one position and the bit that enters. -/
theorem rotates : Obligations.Rotates := by
  unfold Obligations.Rotates
  refine fun s =>
    ⟨completes_imp (completes_of_rotateA (exec_rlc s)) fun t ⟨value, cy⟩ => ⟨?_, ?_⟩,
    completes_imp (completes_of_rotateA (exec_rrc s)) fun t ⟨value, cy⟩ => ⟨?_, ?_⟩,
    completes_imp (completes_of_rotateA (exec_ral s)) fun t ⟨value, cy⟩ => ⟨?_, ?_⟩,
    completes_imp (completes_of_rotateA (exec_rar s)) fun t ⟨value, cy⟩ => ⟨?_, ?_⟩⟩
  · rw [value, shiftedLeft_toNat, bitSeven_toNat]
  · rw [cy, getLsbD_seven]
  · rw [value, shiftedRight_toNat, bitZero_toNat]
  · rw [cy, getLsbD_zero]
  · rw [value, shiftedLeft_toNat, BitVec.toNat_ofBool]
  · rw [cy, getLsbD_seven]
  · rw [value, shiftedRight_toNat, BitVec.toNat_ofBool]
  · rw [cy, getLsbD_zero]

/-- Two updates with one frame whose first part returns to its old value. -/
theorem frame_of_restored {p : Part} {ps : List Part} {s t u : State} (first : Frame (p :: ps) s t)
    (second : Frame (p :: ps) t u) (restored : p.Same s u) : Frame ps s u :=
  ((first.trans second).mono (by simp)).drop restored

/-- A number shifted to the left with `x` entering keeps `x` as its last bit, and shifted back with
its old first bit entering it is what it was. -/
theorem shifted_back {a x : Nat} (hx : x ≤ 1) :
    (a * 2 % 256 + x) % 2 = x ∧ (a * 2 % 256 + x) / 2 + a / 128 * 128 = a := by
  have shifted : a * 2 % 256 = 2 * (a % 128) := by omega
  rw [shifted]
  omega

theorem first_bit_toNat {a : Nat} (ha : a < 256) : (decide (128 ≤ a)).toNat = a / 128 := by
  by_cases h : 128 ≤ a <;> simp [h] <;> omega

/-- Settles O44: by the numbers that the rotates leave in A and CY. -/
theorem rotatesAreInverse : Obligations.RotatesAreInverse := by
  unfold Obligations.RotatesAreInverse
  intro s
  have ha : (s.getReg .a).toNat < 256 := (s.getReg .a).isLt
  obtain ⟨⟨t, rlc, pc_t, frame_t, a_t, -⟩, -, ⟨v, ral, pc_v, frame_v, a_v, cy_v⟩, -⟩ := rotates s
  obtain ⟨-, ⟨u, rrc, pc_u, frame_u, a_u, -⟩, -, -⟩ := rotates t
  obtain ⟨-, -, -, w, rar, pc_w, frame_w, a_w, cy_w⟩ := rotates v
  obtain ⟨last, back⟩ := shifted_back (a := (s.getReg .a).toNat) (Bool.toNat_le (s.flag .cy))
  obtain ⟨circular_last, circular_back⟩ :=
    shifted_back (a := (s.getReg .a).toNat) (x := (s.getReg .a).toNat / 128) (by omega)
  have a_restored : w.getReg .a = s.getReg .a := by
    apply BitVec.eq_of_toNat_eq
    rw [a_w, a_v, cy_v, first_bit_toNat ha, back]
  have cy_restored : w.flag .cy = s.flag .cy := by
    rw [cy_w, a_v, last]
    cases s.flag .cy <;> rfl
  have circular_restored : u.getReg .a = s.getReg .a := by
    apply BitVec.eq_of_toNat_eq
    rw [a_u, a_t, circular_last, circular_back]
  have two_steps : s.pc + 1 + 1 = s.pc + 2 := BitVec.add_assoc s.pc 1 1
  exact ⟨⟨v, w, ral, rar, by rw [pc_w, pc_v, two_steps],
      (frame_of_restored frame_v frame_w a_restored).drop cy_restored⟩,
    t, u, rlc, rrc, by rw [pc_u, pc_t, two_steps],
    frame_of_restored frame_t frame_u circular_restored⟩

/-! ## CMA, STC and CMC (rules R212 to R214) -/

theorem completes_of_setFlag {i : Instr} {s : State} {g : Flag} {v : Bool} {n : Word}
    (meaning : exec i s = (s.setF (setFlag s.f g v)).advance n) :
    Completes i s (s.pc + n) [.flag g] fun t => t.flag g = v :=
  completes_of_advance meaning rfl (setFlag_frame s g v) (by simp)

theorem xor_ff_toNat (v : Byte) : (v ^^^ 0xFF).toNat + v.toNat = 255 := by
  revert v; decide

/-- Settles O45: CMA writes A alone, STC and CMC one flag. -/
theorem complementAndCarry : Obligations.ComplementAndCarry := by
  unfold Obligations.ComplementAndCarry
  intro s
  refine ⟨completes_imp (completes_of_setReg (exec_cma s)) fun t value => ?_,
    completes_of_setFlag (exec_stc s), completes_of_setFlag (exec_cmc s)⟩
  rw [value, xor_ff_toNat]

end Sys2Proof.Machine
end

section
/-! Branch and control transfer (spec/43_branch_control.md) and the stack instructions
(spec/44_stack.md). -/

namespace Sys2Proof.Machine

open Sys2Proof.Safety

/-! ## The meaning of each instruction (rules R233 to R241, R262 to R266) -/

theorem exec_jmp (addr : Word) (s : State) : exec (.jmp addr) s = s.jumpTo addr := rfl

theorem exec_call (addr : Word) (s : State) : exec (.call addr) s = s.callTo 3 addr := rfl

theorem exec_ret (s : State) : exec .ret s = s.returnToCaller := rfl

theorem exec_rst (n : BitVec 3) (s : State) :
    exec (.rst n) s = s.callTo 1 (BitVec.ofNat 16 (8 * n.toNat)) := rfl

theorem exec_pchl (s : State) : exec .pchl s = s.jumpTo s.hl := rfl

theorem exec_sphl (s : State) : exec .sphl s = (s.setSp s.hl).advance 1 := rfl

theorem exec_push (pair : StackPair) (s : State) :
    exec (.push pair) s = (s.push16 (s.readStackPair pair)).advance 1 := rfl

theorem exec_pushPsw (s : State) :
    exec .pushPsw s = (s.push16 (wordOf (s.getReg .a) s.f)).advance 1 := rfl

theorem exec_pop (pair : StackPair) (s : State) :
    exec (.pop pair) s = (s.popped.writeStackPair pair s.topOfStack).advance 1 := rfl

theorem exec_popPsw (s : State) :
    exec .popPsw s =
      ((s.popped.setF (loByte s.topOfStack)).setReg .a (hiByte s.topOfStack)).advance 1 := rfl

theorem exec_xthl (s : State) :
    exec .xthl s = (((s.writeMem s.sp (s.getReg .l)).writeMem (s.sp + 1) (s.getReg .h)).setPairOf
      .h .l s.topOfStack).advance 1 := rfl

theorem exec_conditionalJump {row : (Word → Instr) × Cond} (listed : row ∈ conditionalJumps)
    (addr : Word) (s : State) : exec (row.1 addr) s = s.jumpIf (s.condHolds row.2) addr := by
  revert row
  simp only [conditionalJumps, List.forall_mem_cons]
  exact ⟨rfl, rfl, rfl, rfl, rfl, rfl, rfl, rfl, by simp⟩

theorem exec_conditionalCall {row : (Word → Instr) × Cond} (listed : row ∈ conditionalCalls)
    (addr : Word) (s : State) : exec (row.1 addr) s = s.callIf (s.condHolds row.2) addr := by
  revert row
  simp only [conditionalCalls, List.forall_mem_cons]
  exact ⟨rfl, rfl, rfl, rfl, rfl, rfl, rfl, rfl, by simp⟩

theorem exec_conditionalReturn {row : Instr × Cond} (listed : row ∈ conditionalReturns)
    (s : State) : exec row.1 s = s.returnIf (s.condHolds row.2) := by
  revert row
  simp only [conditionalReturns, List.forall_mem_cons]
  exact ⟨rfl, rfl, rfl, rfl, rfl, rfl, rfl, rfl, by simp⟩

/-! ## Jumps (rules R233, R234, R240, R241) -/

/-- A meaning that updates the state to `t` and then jumps completes with the update's frame. -/
theorem completes_of_jumpTo {i : Instr} {s t : State} {target : Word} {changed : List Part}
    {result : State → Prop} (meaning : exec i s = t.jumpTo target) (frame : Frame changed s t)
    (computed : result (t.setPc target)) : Completes i s target changed result :=
  ⟨t.setPc target, meaning, t.setPc_pc target, (frame.trans (setPc_frame t _)).mono (by simp),
    computed⟩

theorem completes_of_advance_alone {i : Instr} {s : State} {n : Word}
    (meaning : exec i s = s.advance n) : Completes i s (s.pc + n) [] fun _ => True :=
  completes_of_advance meaning rfl (Frame.refl s) trivial

/-- Settles O46: each writes PC or SP, with its operand or HL. -/
theorem jumpAndHlTransfers : Obligations.JumpAndHlTransfers := by
  unfold Obligations.JumpAndHlTransfers
  refine ⟨fun addr s => completes_of_jumpTo (exec_jmp addr s) (Frame.refl s) trivial,
    fun s => ?pchl, fun s => ?sphl⟩
  case pchl =>
    rw [← s.hl_eq_hlOf]
    exact completes_of_jumpTo (exec_pchl s) (Frame.refl s) trivial
  case sphl =>
    rw [← s.hl_eq_hlOf]
    exact completes_of_advance (exec_sphl s) rfl (setSp_frame s s.hl) rfl

section Conditions

variable {i : Instr} {s : State} {cond : Cond} {addr : Word}

theorem exec_of_jumpIf (meaning : exec i s = s.jumpIf (s.condHolds cond) addr) :
    (Holds s cond → exec i s = s.jumpTo addr) ∧ (¬Holds s cond → exec i s = s.advance 3) := by
  rw [meaning, ← s.condHolds_iff]
  obtain ⟨taken, answer⟩ | ⟨taken, answer⟩ := s.jumpIf_cases (s.condHolds cond) addr <;>
    rw [answer, taken] <;> simp

theorem exec_of_callIf (meaning : exec i s = s.callIf (s.condHolds cond) addr) :
    (Holds s cond → exec i s = s.callTo 3 addr) ∧ (¬Holds s cond → exec i s = s.advance 3) := by
  rw [meaning, ← s.condHolds_iff]
  obtain ⟨taken, answer⟩ | ⟨taken, answer⟩ := s.callIf_cases (s.condHolds cond) addr <;>
    rw [answer, taken] <;> simp

theorem exec_of_returnIf (meaning : exec i s = s.returnIf (s.condHolds cond)) :
    (Holds s cond → exec i s = s.returnToCaller) ∧ (¬Holds s cond → exec i s = s.advance 1) := by
  rw [meaning, ← s.condHolds_iff]
  obtain ⟨taken, answer⟩ | ⟨taken, answer⟩ := s.returnIf_cases (s.condHolds cond) <;>
    rw [answer, taken] <;> simp

end Conditions

/-- Settles O47: taken it is JMP, untaken the advance alone. -/
theorem conditionalJumps : Obligations.ConditionalJumps := by
  unfold Obligations.ConditionalJumps
  intro row listed addr s
  obtain ⟨taken, untaken⟩ := exec_of_jumpIf (exec_conditionalJump listed addr s)
  exact ⟨fun holds => completes_of_jumpTo (taken holds) (Frame.refl s) trivial,
    fun fails => completes_of_advance_alone (untaken fails)⟩

/-! ## Pushes and calls (rules R235, R236, R239, R260, R262, R263) -/

theorem completes_of_push16 {i : Instr} {s : State} {v n : Word}
    (meaning : exec i s = (s.push16 v).advance n) :
    Completes i s (s.pc + n) [.sp, .cell (s.sp - 1), .cell (s.sp - 2)] fun t =>
      t.sp = s.sp - 2 ∧ t.readMem (s.sp - 1) = hiByte v ∧ t.readMem (s.sp - 2) = loByte v :=
  completes_of_advance meaning rfl (push16_frame s v)
    ⟨rfl, s.push16_readMem_high v, s.push16_readMem_low v⟩

theorem completes_of_callTo {i : Instr} {s : State} {length target : Word}
    (meaning : exec i s = s.callTo length target) :
    Completes i s target [.sp, .cell (s.sp - 1), .cell (s.sp - 2)] fun t =>
      t.sp = s.sp - 2 ∧ poppedWord t = s.pc + length ∧
        (t.readMem (s.sp - 1)).toNat = (s.pc + length).toNat / 256 ∧
        (t.readMem (s.sp - 2)).toNat = (s.pc + length).toNat % 256 := by
  refine completes_of_jumpTo meaning (push16_frame s _) ⟨rfl, ?_, ?_, ?_⟩
  · rw [← State.topOfStack_eq_poppedWord, State.setPc_topOfStack, s.topOfStack_push16]
  · rw [State.setPc_readMem, s.push16_readMem_high, hiByte_toNat]
  · rw [State.setPc_readMem, s.push16_readMem_low, loByte_toNat]

/-- Settles O48: a taken conditional call is the unconditional one. -/
theorem calls : Obligations.Calls := by
  unfold Obligations.Calls
  refine ⟨fun addr s => completes_of_callTo (exec_call addr s), fun row listed addr s => ?_⟩
  obtain ⟨taken, untaken⟩ := exec_of_callIf (exec_conditionalCall listed addr s)
  refine ⟨fun holds => ⟨(taken holds).trans (exec_call addr s).symm, ?_⟩,
    fun fails => completes_of_advance_alone (untaken fails)⟩
  exact completes_imp (completes_of_callTo (taken holds)) fun t ⟨sp, popped, _⟩ => ⟨sp, popped⟩

/-- Settles O51: RST is a call of one byte. -/
theorem restart : Obligations.Restart := by
  unfold Obligations.Restart
  exact fun n s => completes_of_callTo (exec_rst n s)

theorem readStackPair_eq_pairOf (s : State) (pair : StackPair) :
    s.readStackPair pair = s.pairOf (stackPairRegs pair).1 (stackPairRegs pair).2 := by
  cases pair <;> rfl

/-- Settles O53: the halves of the word pushed are the two registers, or A and F. -/
theorem pushStoresThePair : Obligations.PushStoresThePair := by
  unfold Obligations.PushStoresThePair
  refine ⟨fun pair s => completes_imp (completes_of_push16 (exec_push pair s)) fun t h => ?pair,
    fun s => completes_imp (completes_of_push16 (exec_pushPsw s)) fun t h => ?psw⟩
  case pair =>
    rw [readStackPair_eq_pairOf, State.pairOf, hiByte_wordOf, loByte_wordOf] at h
    exact h
  case psw =>
    rw [hiByte_wordOf, loByte_wordOf] at h
    exact h

/-! ## Pops and returns (rules R237, R238, R261, R264, R265) -/

theorem completes_of_returnToCaller {i : Instr} {s : State}
    (meaning : exec i s = s.returnToCaller) :
    Completes i s (poppedWord s) [.sp] fun t => t.sp = s.sp + 2 := by
  rw [← s.topOfStack_eq_poppedWord]
  exact completes_of_jumpTo meaning (popped_frame s) rfl

/-- Settles O49: a taken conditional return is the unconditional one. -/
theorem returns : Obligations.Returns := by
  unfold Obligations.Returns
  refine ⟨fun s => completes_of_returnToCaller (exec_ret s), fun row listed s => ?_⟩
  obtain ⟨taken, untaken⟩ := exec_of_returnIf (exec_conditionalReturn listed s)
  exact ⟨fun holds => completes_of_returnToCaller (taken holds),
    fun fails => completes_of_advance_alone (untaken fails)⟩

/-- Settles O50: the call leaves the return address on the stack, and the return restores SP. -/
theorem callThenReturn : Obligations.CallThenReturn := by
  unfold Obligations.CallThenReturn
  intro addr s
  obtain ⟨t, call, pc_t, frame_t, sp_t, popped_t, -, -⟩ := completes_of_callTo (exec_call addr s)
  obtain ⟨u, ret, pc_u, frame_u, sp_u⟩ := completes_of_returnToCaller (exec_ret t)
  have sp_restored : u.sp = s.sp := by rw [sp_u, sp_t, BitVec.sub_add_cancel]
  refine ⟨t, u, call, pc_t, ret, pc_u.trans popped_t, ?_⟩
  exact Frame.drop (x := .sp) ((frame_t.trans frame_u).mono (by simp)) sp_restored

theorem writeStackPair_eq_setPairOf (s : State) (pair : StackPair) (v : Word) :
    s.writeStackPair pair v = s.setPairOf (stackPairRegs pair).1 (stackPairRegs pair).2 v := by
  cases pair <;> rfl

theorem stackPairRegs_ne (pair : StackPair) : (stackPairRegs pair).1 ≠ (stackPairRegs pair).2 := by
  cases pair <;> decide

/-- F replaced whole changes its flags and its unused bits at most. -/
theorem setF_frame (s : State) (f : Byte) : Frame (.unusedBits :: allFlags) s (s.setF f) := by
  intro p hp
  cases p with
  | flag g => cases g <;> simp [allFlags] at hp
  | unusedBits => simp at hp
  | _ => rfl

/-- Settles O54: the halves of the word popped are the bytes at SP+1 and SP. -/
theorem popLoadsThePair : Obligations.PopLoadsThePair := by
  unfold Obligations.PopLoadsThePair
  refine ⟨fun pair s => ?pair, fun s => ?psw⟩
  case pair =>
    have meaning := exec_pop pair s
    rw [writeStackPair_eq_setPairOf] at meaning
    exact completes_of_advance meaning rfl
      ((popped_frame s).trans (setPairOf_frame _ _ _ _))
      ⟨rfl, by simp [stackPairRegs_ne, State.topOfStack], by simp [State.topOfStack]⟩
  case psw =>
    exact completes_of_advance (exec_popPsw s) rfl
      (((popped_frame s).trans ((setF_frame _ _).trans (setReg_frame _ .a _))).mono
        (by simp [allFlags]))
      ⟨rfl, by simp [State.topOfStack], by simp [State.topOfStack]⟩

/-- Settles O56: the word popped is the word pushed, and SP is restored. -/
theorem pushThenPop : Obligations.PushThenPop := by
  unfold Obligations.PushThenPop
  intro pair other s
  obtain ⟨t, push, -, frame_t, sp_t, high_t, low_t⟩ := pushStoresThePair.left pair s
  obtain ⟨u, pop, -, frame_u, sp_u, high_u, low_u⟩ := popLoadsThePair.left other t
  have sp_restored : u.sp = s.sp := by rw [sp_u, sp_t, BitVec.sub_add_cancel]
  have high_cell : t.sp + 1 = s.sp - 1 := by rw [sp_t]; bv_omega
  refine ⟨t, u, push, pop, ?_, ?_⟩
  · rw [stackPairValue, high_u, low_u, high_cell, sp_t, high_t, low_t, stackPairValue]
  · exact Frame.drop (x := .sp) ((frame_t.trans frame_u).mono (by simp)) sp_restored

/-! ## XTHL (rule R266) -/

theorem xthl_completes (s : State) :
    Completes .xthl s (s.pc + 1) [.reg .h, .reg .l, .cell s.sp, .cell (s.sp + 1)] fun t =>
      t.getReg .l = s.readMem s.sp ∧ t.getReg .h = s.readMem (s.sp + 1) ∧
      t.readMem s.sp = s.getReg .l ∧ t.readMem (s.sp + 1) = s.getReg .h :=
  completes_of_advance (exec_xthl s) rfl
    ((((writeMem_frame s s.sp _).trans (writeMem_frame _ (s.sp + 1) _)).trans
      (setPairOf_frame _ .h .l _)).mono (by simp))
    (by simp [State.topOfStack])

/-- Settles O55: the second exchange brings back each of the four bytes the first one moved. -/
theorem xthlExchangesTheTopOfStack : Obligations.XthlExchangesTheTopOfStack := by
  unfold Obligations.XthlExchangesTheTopOfStack
  refine fun s => ⟨xthl_completes s, ?_⟩
  obtain ⟨t, first, pc_t, frame_t, l_t, h_t, low_t, high_t⟩ := xthl_completes s
  obtain ⟨u, second, pc_u, frame_u, l_u, h_u, low_u, high_u⟩ := xthl_completes t
  have sp_t : t.sp = s.sp := frame_t .sp (by simp)
  rw [sp_t] at l_u h_u low_u high_u frame_u
  have twice : Frame [.reg .h, .reg .l, .cell s.sp, .cell (s.sp + 1)] s u :=
    (frame_t.trans frame_u).mono (by simp)
  refine ⟨t, u, first, second, ?_, ?_⟩
  · rw [pc_u, pc_t]
    exact BitVec.add_assoc s.pc 1 1
  · have h_restored : u.getReg .h = s.getReg .h := h_u.trans high_t
    have l_restored : u.getReg .l = s.getReg .l := l_u.trans low_t
    have low_restored : u.readMem s.sp = s.readMem s.sp := low_u.trans l_t
    have high_restored : u.readMem (s.sp + 1) = s.readMem (s.sp + 1) := high_u.trans h_t
    exact (((twice.drop h_restored).drop l_restored).drop low_restored).drop high_restored

end Sys2Proof.Machine
end

section
/-! I/O and control (spec/45_io_control.md). -/

namespace Sys2Proof.Machine

open Sys2Proof.Safety

/-! ## The meaning of each instruction (rules R281, R282, R284, R285, R292) -/

theorem exec_inPort (port : Byte) (s : State) :
    exec (.inPort port) s = ((s.setReg .a (s.ioByte port)).countIoRead).advance 2 := rfl

theorem exec_outPort (port : Byte) (s : State) :
    exec (.outPort port) s = (s.emitIoWrite port (s.getReg .a)).advance 2 := rfl

theorem exec_ei (s : State) : exec .ei s = (s.setIe true).advance 1 := rfl

theorem exec_di (s : State) : exec .di s = (s.setIe false).advance 1 := rfl

theorem exec_hlt (s : State) : exec .hlt s = (s.setHalted true).advance 1 := rfl

/-- Settles O57: the byte is `Config.ioRead`'s, of which nothing is known. -/
theorem portInputAndOutput : Obligations.PortInputAndOutput := by
  unfold Obligations.PortInputAndOutput
  refine fun port s => ⟨?input, ?output⟩
  case input =>
    exact completes_of_advance (exec_inPort port s) rfl
      ((setReg_frame s .a _).trans (countIoRead_frame _)) ⟨rfl, rfl⟩
  case output =>
    exact completes_of_advance (exec_outPort port s) rfl (emitIoWrite_frame s port _) rfl

/-- Settles O58: each writes one latch. -/
theorem latchInstructions : Obligations.LatchInstructions := by
  unfold Obligations.LatchInstructions
  exact fun s => ⟨completes_of_advance (exec_ei s) rfl (setIe_frame s true) rfl,
    completes_of_advance (exec_di s) rfl (setIe_frame s false) rfl,
    completes_of_advance (exec_hlt s) rfl (setHalted_frame s true) rfl⟩

end Sys2Proof.Machine
end

section
/-! Every instruction at once: the PC table and the table of what each instruction writes
(spec/10_state.md rules R23, R26, R28, R31, R35, R36, spec/20_memory.md rules R56, R58). -/

namespace Sys2Proof.Machine

open Sys2Proof.Safety

/-- The instruction completes, goes where the PC table says and writes only the parts of its row. -/
def FollowsTables (i : Instr) (s : State) : Prop :=
  Completes i s (nextPc i s) (writes i s) fun _ => True

theorem followsTables_of_completes {i : Instr} {s : State} {pc : Word} {changed : List Part}
    {result : State → Prop} (h : Completes i s pc changed result) (pc_eq : nextPc i s = pc)
    (writes_eq : writes i s = changed) : FollowsTables i s := by
  unfold FollowsTables
  rw [pc_eq, writes_eq]
  exact completes_imp h fun _ _ => trivial

/-! ## The conditional transfers -/

section Conditions

variable {i : Instr} {s : State} {cond : Cond} {addr sequential : Word}

theorem taken_iff_holds (h : conditionOf i = some cond) : taken i s = true ↔ Holds s cond := by
  simp [taken, h, Holds]

/-- A row of either table that depends on whether the transfer is taken, from its two cases. -/
theorem followsTables_of_cases {target : Word} {changed : List Part}
    {result result' : State → Prop}
    (condition : conditionOf i = some cond)
    (pc_eq : nextPc i s = if taken i s then target else sequential)
    (writes_eq : writes i s = if taken i s then changed else [])
    (whenTaken : Holds s cond → Completes i s target changed result)
    (whenUntaken : ¬Holds s cond → Completes i s sequential [] result') : FollowsTables i s := by
  by_cases h : taken i s = true
  · rw [if_pos h] at pc_eq writes_eq
    exact followsTables_of_completes (whenTaken ((taken_iff_holds condition).mp h)) pc_eq writes_eq
  · rw [if_neg h] at pc_eq writes_eq
    exact followsTables_of_completes (whenUntaken (mt (taken_iff_holds condition).mpr h)) pc_eq
      writes_eq

theorem followsTables_of_jumpIf (condition : conditionOf i = some cond)
    (meaning : exec i s = s.jumpIf (s.condHolds cond) addr)
    (pc_eq : nextPc i s = if taken i s then addr else s.pc + 3)
    (writes_eq : writes i s = []) : FollowsTables i s := by
  obtain ⟨taken, untaken⟩ := exec_of_jumpIf meaning
  exact followsTables_of_cases condition pc_eq (writes_eq.trans (ite_self _).symm)
    (fun holds =>
      completes_of_jumpTo (result := fun _ => True) (taken holds) (Frame.refl s) trivial)
    fun fails => completes_of_advance_alone (untaken fails)

theorem followsTables_of_callIf (condition : conditionOf i = some cond)
    (meaning : exec i s = s.callIf (s.condHolds cond) addr)
    (pc_eq : nextPc i s = if taken i s then addr else s.pc + 3)
    (writes_eq : writes i s = if taken i s then [.sp, .cell (s.sp - 1), .cell (s.sp - 2)] else []) :
    FollowsTables i s := by
  obtain ⟨taken, untaken⟩ := exec_of_callIf meaning
  exact followsTables_of_cases condition pc_eq writes_eq
    (fun holds => completes_of_callTo (taken holds))
    fun fails => completes_of_advance_alone (untaken fails)

theorem followsTables_of_returnIf (condition : conditionOf i = some cond)
    (meaning : exec i s = s.returnIf (s.condHolds cond))
    (pc_eq : nextPc i s = if taken i s then poppedWord s else s.pc + 1)
    (writes_eq : writes i s = if taken i s then [.sp] else []) : FollowsTables i s := by
  obtain ⟨taken, untaken⟩ := exec_of_returnIf meaning
  exact followsTables_of_cases condition pc_eq writes_eq
    (fun holds => completes_of_returnToCaller (taken holds))
    fun fails => completes_of_advance_alone (untaken fails)

end Conditions

/-! ## Every instruction with a meaning -/

/-- Each instruction's row of the tables is what its own statement says of it. -/
theorem followsTables (i : Instr) (s : State) (defined : ∀ byte, i ≠ .unimplemented byte) :
    FollowsTables i s := by
  cases i with
  | unimplemented byte => exact absurd rfl (defined byte)
  | movRR dst src => exact followsTables_of_completes (movRegisterToRegister dst src s) rfl rfl
  | movRM dst => exact followsTables_of_completes (loadsFromMemory.left dst s) rfl rfl
  | movMR src => exact followsTables_of_completes (storesToMemory.left src s) rfl rfl
  | mviR dst imm => exact followsTables_of_completes (immediateLoads.left dst imm s) rfl rfl
  | mviM imm => exact followsTables_of_completes (mviM_completes imm s) rfl rfl
  | lxi pair imm16 => exact followsTables_of_completes (immediateLoads.right pair imm16 s) rfl rfl
  | lda addr => exact followsTables_of_completes (loadsFromMemory.right.left addr s) rfl rfl
  | sta addr => exact followsTables_of_completes (storesToMemory.right.left addr s) rfl rfl
  | ldax pair => exact followsTables_of_completes (loadsFromMemory.right.right pair s) rfl rfl
  | stax pair => exact followsTables_of_completes (storesToMemory.right.right pair s) rfl rfl
  | lhld addr => exact followsTables_of_completes (lhldAndShld.left addr s) rfl rfl
  | shld addr => exact followsTables_of_completes (lhldAndShld.right addr s) rfl rfl
  | xchg => exact followsTables_of_completes (xchgExchangesHlAndDe s) rfl rfl
  | add _ | adc _ | adi _ | aci _ =>
    exact followsTables_of_completes (completes_of_addToA rfl) rfl rfl
  | sub _ | sbb _ | sui _ | sbi _ =>
    exact followsTables_of_completes (completes_of_subFromA rfl) rfl rfl
  | ana _ | xra _ | ora _ | ani _ | xri _ | ori _ =>
    exact followsTables_of_completes (completes_of_logicToA rfl) rfl rfl
  | cmp _ | cpi _ => exact followsTables_of_completes (completes_of_compareA rfl) rfl rfl
  | inrR dst => exact followsTables_of_completes (inrR_completes dst s) rfl rfl
  | inrM => exact followsTables_of_completes (incrementMemory s).right rfl rfl
  | dcrR dst => exact followsTables_of_completes (dcrR_completes dst s) rfl rfl
  | dcrM => exact followsTables_of_completes (decrementMemory s) rfl rfl
  | inx _ | dcx _ => exact followsTables_of_completes (completes_of_writePair rfl) rfl rfl
  | dad pair => exact followsTables_of_completes (dad_completes pair s) rfl rfl
  | daa => exact followsTables_of_completes (daa_completes s) rfl rfl
  | rlc | rrc | ral | rar =>
    exact followsTables_of_completes (completes_of_rotateA rfl) rfl rfl
  | cma => exact followsTables_of_completes (completes_of_setReg (exec_cma s)) rfl rfl
  | stc | cmc => exact followsTables_of_completes (completes_of_setFlag rfl) rfl rfl
  | jmp addr => exact followsTables_of_completes (jumpAndHlTransfers.left addr s) rfl rfl
  | jnz addr | jz addr | jnc addr | jc addr | jpo addr | jpe addr | jp addr | jm addr =>
    exact followsTables_of_jumpIf rfl rfl rfl rfl
  | call addr => exact followsTables_of_completes (calls.left addr s) rfl rfl
  | cnz addr | cz addr | cnc addr | cc addr | cpo addr | cpe addr | cp addr | cm addr =>
    exact followsTables_of_callIf rfl rfl rfl rfl
  | ret => exact followsTables_of_completes (returns.left s) rfl rfl
  | rnz | rz | rnc | rc | rpo | rpe | rp | rm => exact followsTables_of_returnIf rfl rfl rfl rfl
  | rst n => exact followsTables_of_completes (restart n s) rfl rfl
  | pchl => exact followsTables_of_completes (jumpAndHlTransfers.right.left s) rfl rfl
  | sphl => exact followsTables_of_completes (jumpAndHlTransfers.right.right s) rfl rfl
  | push pair => exact followsTables_of_completes (pushStoresThePair.left pair s) rfl rfl
  | pushPsw => exact followsTables_of_completes (pushStoresThePair.right s) rfl rfl
  | pop pair => exact followsTables_of_completes (popLoadsThePair.left pair s) rfl rfl
  | popPsw => exact followsTables_of_completes (popLoadsThePair.right s) rfl rfl
  | xthl => exact followsTables_of_completes (xthl_completes s) rfl rfl
  | inPort port => exact followsTables_of_completes (portInputAndOutput port s).left rfl rfl
  | outPort port => exact followsTables_of_completes (portInputAndOutput port s).right rfl rfl
  | ei => exact followsTables_of_completes (latchInstructions s).left rfl rfl
  | di => exact followsTables_of_completes (latchInstructions s).right.left rfl rfl
  | rim | sim => exact followsTables_of_completes (completes_of_advance_alone rfl) rfl rfl
  | hlt => exact followsTables_of_completes (latchInstructions s).right.right rfl rfl

/-- An instruction that answers a next state answers the one its rows of the tables speak of. -/
theorem pc_and_frame_of_next {i : Instr} {s t : State} (h : exec i s = .next t) :
    t.pc = nextPc i s ∧ Frame (writes i s) s t := by
  have defined : ∀ byte, i ≠ .unimplemented byte := by
    rintro byte rfl
    rw [exec_unimplemented] at h
    cases h
  obtain ⟨u, executes, pc, frame, -⟩ := followsTables i s defined
  rw [h] at executes
  cases executes
  exact ⟨pc, frame⟩

/-- Settles O13: by the tables, instruction by instruction. -/
theorem frameOfEveryInstruction : Obligations.FrameOfEveryInstruction := by
  unfold Obligations.FrameOfEveryInstruction
  exact fun i s t h => (pc_and_frame_of_next h).right

/-- Settles O14: by the tables, instruction by instruction. -/
theorem nextPcOfEveryInstruction : Obligations.NextPcOfEveryInstruction := by
  unfold Obligations.NextPcOfEveryInstruction
  exact fun i s t h => (pc_and_frame_of_next h).left

end Sys2Proof.Machine
end

section
/-! The step driver (spec/45_io_control.md, spec/60_exceptions.md): when a step stops with the error,
when it halts, and what it fetches. -/

namespace Sys2Proof.Machine

open Sys2Proof.Safety

/-! ## The one error (rules R296, R301, R304) -/

theorem step_of_unimplemented {s : State} (running : s.halted = false)
    (listed : s.readMem s.pc ∈ unimplementedBytes) :
    step s = .fault (.unimplementedOpcode (s.readMem s.pc) s.pc) := by
  rw [step_of_running running, State.fetchInstr, decode_of_mem_unimplementedBytes listed,
    exec_unimplemented]

theorem step_completes_or_unimplemented (s : State) :
    (∃ t, step s = .next t) ∨ (s.halted = false ∧ s.readMem s.pc ∈ unimplementedBytes) := by
  cases halted : s.halted with
  | true => exact .inl ⟨s, step_of_halted halted⟩
  | false =>
    rw [step_of_running halted]
    obtain completes | ⟨byte, fetched⟩ := exec_completes_or_unimplemented s.fetchInstr s
    · exact .inl completes
    · exact .inr ⟨rfl, ((decode_eq_unimplemented_iff ..).mp fetched).right⟩

theorem step_eq_fault_iff {s : State} (running : s.halted = false) (reason : Fault) :
    step s = .fault reason ↔ s.readMem s.pc ∈ unimplementedBytes ∧
      reason = .unimplementedOpcode (s.readMem s.pc) s.pc := by
  constructor
  · intro faults
    refine ⟨?_, (step_fault faults).right⟩
    obtain ⟨t, completes⟩ | ⟨-, listed⟩ := step_completes_or_unimplemented s
    · rw [completes] at faults
      cases faults
    · exact listed
  · rintro ⟨listed, rfl⟩
    exact step_of_unimplemented running listed

/-- Settles O9: a step that does not complete found one of the eleven bytes. -/
theorem everyDefinedInstructionCompletes : Obligations.EveryDefinedInstructionCompletes := by
  unfold Obligations.EveryDefinedInstructionCompletes
  refine ⟨exec_completes_or_unimplemented, fun s => ?_⟩
  exact (step_completes_or_unimplemented s).imp_right fun ⟨running, listed⟩ =>
    ⟨running, listed, step_of_unimplemented running listed⟩

/-- Settles O8: both sides say that the opcode byte is one of the eleven. -/
theorem unimplementedOpcodeError : Obligations.UnimplementedOpcodeError := by
  unfold Obligations.UnimplementedOpcodeError
  refine fun s running => ⟨fun byte pc => ?iff, fun byte decoded => ?content⟩
  case iff =>
    rw [step_eq_fault_iff running, decode_eq_unimplemented_iff, Fault.unimplementedOpcode.injEq]
    tauto
  case content =>
    obtain ⟨rfl, listed⟩ := (decode_eq_unimplemented_iff ..).mp decoded
    have faults := step_of_unimplemented running listed
    refine ⟨rfl, afterStep_of_fault faults, ?_⟩
    rw [stepResult, afterStep_of_fault faults, stepError_eq_some_iff.mpr faults, running]

/-- Settles O60: the first step of any run stops, and the state stays. -/
theorem unimplementedAlwaysStops : Obligations.UnimplementedAlwaysStops := by
  unfold Obligations.UnimplementedAlwaysStops
  refine fun byte listed s => ⟨exec_unimplemented byte s, fun running opcode n => ?_⟩
  subst opcode
  have faults := step_of_unimplemented running listed
  have core_faults : core.step s = .fault (.unimplementedOpcode (s.readMem s.pc) s.pc) := faults
  refine ⟨?_, afterStep_of_fault faults⟩
  simp only [Host.Core.run, core_faults]

/-! ## HLT (rules R36, R292) -/

theorem decode_eq_hlt_iff (op b2 b3 : Byte) : decode op b2 b3 = .hlt ↔ op = 0x76 :=
  ⟨fun decoded => opcode_of_decode decoded rfl, fun h => h ▸ rfl⟩

theorem halted_notMem_writes {i : Instr} (h : i ≠ .hlt) (s : State) : Part.halted ∉ writes i s := by
  cases i with
  | hlt => exact absurd rfl h
  | lxi pair | inx pair | dcx pair => cases pair <;> simp [writes, pairParts]
  | cnz | cz | cnc | cc | cpo | cpe | cp | cm | rnz | rz | rnc | rc | rpo | rpe | rp | rm =>
    simp only [writes]
    split <;> simp
  | _ => simp [writes, allFlags, flagsLessCy]

theorem halted_iff_of_next {i : Instr} {s t : State} (h : exec i s = .next t) :
    t.halted = true ↔ s.halted = true ∨ i = .hlt := by
  by_cases hlt : i = .hlt
  · subst hlt
    rw [exec_hlt] at h
    cases h
    simp
  · have unchanged : t.halted = s.halted :=
      (pc_and_frame_of_next h).right .halted (halted_notMem_writes hlt s)
    simp [unchanged, hlt]

/-- Settles O11: HLT alone writes the latch, and its byte alone decodes to it. -/
theorem onlyHltHalts : Obligations.OnlyHltHalts := by
  unfold Obligations.OnlyHltHalts
  intro s t steps
  obtain ⟨halted, rfl⟩ | ⟨running, executes⟩ := step_cases steps
  · simp [halted]
  · rw [halted_iff_of_next executes, State.fetchInstr, decode_eq_hlt_iff]

/-! ## Fetch coherence (rule R67) -/

/-- Settles O12: the store is the only change, and the next fetch starts at its cell. -/
theorem storeIsSeenByTheNextFetch : Obligations.StoreIsSeenByTheNextFetch := by
  unfold Obligations.StoreIsSeenByTheNextFetch
  intro s
  obtain ⟨t, executes, pc, frame, stored⟩ := storesToMemory.right.left (s.pc + 3) s
  have halted_kept : t.halted = s.halted := frame .halted (by simp)
  have second : s.pc + 3 + 1 = s.pc + 4 := BitVec.add_assoc s.pc 3 1
  have third : s.pc + 3 + 2 = s.pc + 5 := BitVec.add_assoc s.pc 3 2
  refine ⟨t, executes, pc, ?_, fun running => step_of_running (halted_kept.trans running)⟩
  rw [State.fetchInstr, pc, stored, second, third]

end Sys2Proof.Machine
end

section
/-! Memory (spec/20_memory.md section 1) and the environment's operations
(spec/70_reset_and_hazards.md): the canonical form, and what `reset()`, creation and `load` leave. -/

namespace Sys2Proof.Machine

open Sys2Proof.Safety

/-! ## A canonical memory is its reads (rules R50, R51) -/

theorem Memory.read_of_mem {m : Memory} (rising : m.Pairwise fun x y => x.1 < y.1)
    {cell : Host.Cell} (listed : cell ∈ m) : Memory.read m cell.1 = cell.2 := by
  induction m with
  | nil => cases listed
  | cons first rest ih =>
    obtain ⟨below, restRising⟩ := List.pairwise_cons.mp rising
    rw [Memory.read]
    obtain rfl | later := List.mem_cons.mp listed
    · exact if_pos rfl
    · rw [if_neg (Nat.ne_of_lt (below cell later)), ih restRising later]

theorem Memory.mem_of_read_ne {m : Memory} {a : Nat} (h : Memory.read m a ≠ Config.memInit a) :
    (a, Memory.read m a) ∈ m := by
  induction m with
  | nil => exact absurd rfl h
  | cons first rest ih =>
    rw [Memory.read] at h ⊢
    by_cases here : first.1 = a
    · subst here
      rw [if_pos rfl]
      exact List.mem_cons_self
    · rw [if_neg here] at h ⊢
      exact List.mem_cons_of_mem _ (ih h)

/-- A cell that a canonical memory lists is listed by every memory that reads the same. -/
theorem Memory.mem_of_reads_eq {m n : Memory} (wf : m.wf)
    (reads : ∀ a < 65536, Memory.read m a = Memory.read n a) {cell : Host.Cell}
    (listed : cell ∈ m) : cell ∈ n := by
  obtain ⟨inside, differs⟩ := wf.right cell listed
  have read_eq : Memory.read n cell.1 = cell.2 :=
    (reads cell.1 inside).symm.trans (Memory.read_of_mem wf.left listed)
  rw [← read_eq] at differs
  have listed_n := Memory.mem_of_read_ne differs
  rwa [read_eq] at listed_n

/-- Settles O23: the two list the same cells, both in rising order. -/
theorem equalReadsMeanEqualMemories : Obligations.EqualReadsMeanEqualMemories := by
  unfold Obligations.EqualReadsMeanEqualMemories
  intro m n wf_m wf_n reads
  have irrefl : Std.Irrefl fun x y : Host.Cell => x.1 < y.1 := ⟨fun x => Nat.lt_irrefl x.1⟩
  have antisymm : Std.Antisymm fun x y : Host.Cell => x.1 < y.1 :=
    ⟨fun _ _ h k => absurd h (Nat.lt_asymm k)⟩
  exact wf_m.left.eq_of_mem_iff wf_n.left fun cell =>
    ⟨Memory.mem_of_reads_eq wf_m reads,
      Memory.mem_of_reads_eq wf_n fun a inside => (reads a inside).symm⟩

/-! ## Every step keeps the canonical form (rule R50) -/

theorem State.jumpIf_wf {s t : State} {taken : Bool} {addr : Word} (wf : s.mem.wf)
    (h : s.jumpIf taken addr = .next t) : t.mem.wf := by
  obtain ⟨-, answer⟩ | ⟨-, answer⟩ := s.jumpIf_cases taken addr <;> cases answer.symm.trans h <;>
    exact wf

theorem State.callIf_wf {s t : State} {taken : Bool} {addr : Word} (wf : s.mem.wf)
    (h : s.callIf taken addr = .next t) : t.mem.wf := by
  obtain ⟨-, answer⟩ | ⟨-, answer⟩ := s.callIf_cases taken addr <;> cases answer.symm.trans h
  · exact State.push16_wf wf _
  · exact wf

theorem State.returnIf_wf {s t : State} {taken : Bool} (wf : s.mem.wf)
    (h : s.returnIf taken = .next t) : t.mem.wf := by
  obtain ⟨-, answer⟩ | ⟨-, answer⟩ := s.returnIf_cases taken <;> cases answer.symm.trans h <;>
    exact wf

theorem exec_wf {i : Instr} {s t : State} (wf : s.mem.wf) (h : exec i s = .next t) :
    t.mem.wf := by
  cases i with
  | movMR | mviM | sta | stax | inrM | dcrM =>
    cases h
    exact State.writeMem_wf wf _ _
  | shld | xthl =>
    cases h
    exact State.writeMem_wf (State.writeMem_wf wf _ _) _ _
  | call | rst | push | pushPsw =>
    cases h
    exact State.push16_wf wf _
  | jnz | jz | jnc | jc | jpo | jpe | jp | jm => exact State.jumpIf_wf wf h
  | cnz | cz | cnc | cc | cpo | cpe | cp | cm => exact State.callIf_wf wf h
  | rnz | rz | rnc | rc | rpo | rpe | rp | rm => exact State.returnIf_wf wf h
  | lxi pair | inx pair | dcx pair | pop pair =>
    cases h
    cases pair <;> exact wf
  | unimplemented => cases h
  | _ =>
    cases h
    exact wf

/-- Settles O15: every instruction changes memory by `writeMem` alone. -/
theorem stepKeepsMemoryCanonical : Obligations.StepKeepsMemoryCanonical := by
  unfold Obligations.StepKeepsMemoryCanonical
  intro s t inv steps
  obtain ⟨-, rfl⟩ | ⟨-, executes⟩ := step_cases steps
  · exact inv
  · exact exec_wf inv executes

/-! ## Creation, `reset()` and `load` (rules R340, R341, R345) -/

/-- Settles O16: the memory of creation is canonical, and `reset()` keeps the memory. -/
theorem environmentKeepsMemoryCanonical : Obligations.EnvironmentKeepsMemoryCanonical := by
  unfold Obligations.EnvironmentKeepsMemoryCanonical
  exact ⟨fun _ memInit => Memory.ofInit_wf memInit, Memory.nil_wf, fun _ _ inv => inv,
    fun _ bytes origin inv => State.load_wf inv bytes origin⟩

/-- Settles O20: creation and `reset()` clear the same fields, over different memories. -/
theorem resetAndCreation : Obligations.ResetAndCreation := by
  unfold Obligations.ResetAndCreation
  refine ⟨fun s spReset => ⟨_, rfl, State.cleared_getReg spReset s.mem, rfl, rfl, rfl, rfl, rfl,
      fun _ => rfl⟩,
    fun spReset memInit => ⟨_, rfl, State.cleared_getReg spReset _, rfl, rfl, rfl, rfl, rfl,
      State.create_readMem spReset memInit⟩, ?_⟩
  rw [State.reset, State.create, Memory.ofInit_default]

/-- Settles O22: `reset()` keeps the memory, so it commutes with each byte stored. -/
theorem resetAndLoadCommute : Obligations.ResetAndLoadCommute := by
  unfold Obligations.ResetAndLoadCommute
  intro s bytes origin spReset
  induction bytes generalizing s origin with
  | nil => rfl
  | cons v rest ih => exact ih (s.writeMem origin v) (origin + 1)

theorem word_add_succ (a : Word) (k : Nat) :
    a + BitVec.ofNat 16 (k + 1) = a + 1 + BitVec.ofNat 16 k := by
  rw [BitVec.add_assoc, Nat.add_comm k 1, BitVec.ofNat_add]
  rfl

/-- The address space is walked once before the first cell comes again. -/
theorem word_ne_add_of_lt (a : Word) {k : Nat} (pos : 0 < k) (small : k < 65536) :
    a ≠ a + BitVec.ofNat 16 k := by
  have := BitVec.toNat_ofNat k 16
  bv_omega

theorem load_readMem_of_missed (s : State) (bytes : List Byte) (origin a : Word)
    (missed : ∀ k, k < bytes.length → a ≠ origin + BitVec.ofNat 16 k) :
    (s.load bytes origin).readMem a = s.readMem a := by
  induction bytes generalizing s origin with
  | nil => rfl
  | cons v rest ih =>
    rw [List.length_cons] at missed
    have first : a ≠ origin := by simpa using missed 0 (Nat.succ_pos _)
    rw [State.load, ih, State.writeMem_readMem, if_neg first]
    intro k inside
    rw [← word_add_succ]
    exact missed (k + 1) (Nat.succ_lt_succ inside)

theorem load_readMem_of_last (s : State) (bytes : List Byte) (origin : Word) (k : Nat)
    (inside : k < bytes.length) (last : bytes.length ≤ k + 65536) :
    (s.load bytes origin).readMem (origin + BitVec.ofNat 16 k) = bytes[k] := by
  induction bytes generalizing s origin k with
  | nil => exact absurd inside (Nat.not_lt_zero k)
  | cons v rest ih =>
    rw [List.length_cons] at inside last
    cases k with
    | zero =>
      have missed : ∀ j, j < rest.length → origin ≠ origin + 1 + BitVec.ofNat 16 j := by
        intro j hj
        rw [← word_add_succ]
        exact word_ne_add_of_lt origin (Nat.succ_pos j) (by omega)
      rw [State.load, BitVec.add_zero, load_readMem_of_missed _ _ _ _ missed,
        State.writeMem_readMem, if_pos rfl, List.getElem_cons_zero]
    | succ k =>
      rw [State.load, word_add_succ, List.getElem_cons_succ]
      exact ih (s.writeMem origin v) (origin + 1) k (by omega) (by omega)

/-- Settles O21: the last byte that lands on a cell stays, and `load` writes nothing else. -/
theorem loadPlacesTheBytes : Obligations.LoadPlacesTheBytes := by
  unfold Obligations.LoadPlacesTheBytes
  exact fun s bytes origin => ⟨load_readMem_of_last s bytes origin,
    load_readMem_of_missed s bytes origin, s.load_eq bytes origin⟩

end Sys2Proof.Machine
end

section
/-! Noninterference: IE and the events of OUT are written and never read, and bits 5, 3 and 1 of F are
never interpreted (spec/10_state.md sections 4 and 5, spec/45_io_control.md section "IN, OUT"). -/

namespace Sys2Proof.Machine

/-! ## IE and the recorded events -/

/-- The state with another IE and other recorded events. -/
def State.withLatchAndRecord (s : State) (ie : Bool) (record : List IoWrite) : State :=
  { s with ie := ie, ioWrites := record }

/-- The answer with its next state changed. -/
def mapNext (f : State → State) :
    Host.Outcome State Fault Refusal → Host.Outcome State Fault Refusal
  | .next t => .next (f t)
  | .fault r => .fault r
  | .refused r => .refused r

/-- From `s`, IE and the recorded events take part in the answer only so: the new IE is a function of
the old one, and events are recorded after the old ones. -/
def LatchAndRecordUnread (answer : State → Host.Outcome State Fault Refusal) (s : State) : Prop :=
  ∃ (latch : Bool → Bool) (events : List IoWrite), ∀ (ie : Bool) (record : List IoWrite),
    answer (s.withLatchAndRecord ie record) =
      mapNext (·.withLatchAndRecord (latch ie) (record ++ events)) (answer s)

theorem unread_of_commutes {answer : State → Host.Outcome State Fault Refusal} {s : State}
    (h : ∀ ie record, answer (s.withLatchAndRecord ie record) =
      mapNext (·.withLatchAndRecord ie record) (answer s)) : LatchAndRecordUnread answer s :=
  ⟨id, [], fun ie record => by rw [List.append_nil, id, h]⟩

theorem jumpIf_commutes (s : State) (taken : Bool) (addr : Word) (ie : Bool)
    (record : List IoWrite) : (s.withLatchAndRecord ie record).jumpIf taken addr =
      mapNext (·.withLatchAndRecord ie record) (s.jumpIf taken addr) := by
  cases taken <;> rfl

theorem callIf_commutes (s : State) (taken : Bool) (addr : Word) (ie : Bool)
    (record : List IoWrite) : (s.withLatchAndRecord ie record).callIf taken addr =
      mapNext (·.withLatchAndRecord ie record) (s.callIf taken addr) := by
  cases taken <;> rfl

theorem returnIf_commutes (s : State) (taken : Bool) (ie : Bool)
    (record : List IoWrite) : (s.withLatchAndRecord ie record).returnIf taken =
      mapNext (·.withLatchAndRecord ie record) (s.returnIf taken) := by
  cases taken <;> rfl

theorem exec_unread (i : Instr) (s : State) : LatchAndRecordUnread (exec i) s := by
  cases i with
  | ei => exact ⟨fun _ => true, [], fun _ record => by rw [List.append_nil]; rfl⟩
  | di => exact ⟨fun _ => false, [], fun _ record => by rw [List.append_nil]; rfl⟩
  | outPort port => exact ⟨id, [{ port := port, value := s.getReg .a }], fun _ _ => rfl⟩
  | lxi pair | inx pair | dcx pair | pop pair =>
    exact unread_of_commutes fun _ _ => by cases pair <;> rfl
  | jnz addr | jz addr | jnc addr | jc addr | jpo addr | jpe addr | jp addr | jm addr =>
    exact unread_of_commutes fun ie record => jumpIf_commutes s _ addr ie record
  | cnz addr | cz addr | cnc addr | cc addr | cpo addr | cpe addr | cp addr | cm addr =>
    exact unread_of_commutes fun ie record => callIf_commutes s _ addr ie record
  | rnz | rz | rnc | rc | rpo | rpe | rp | rm =>
    exact unread_of_commutes fun ie record => returnIf_commutes s _ ie record
  | _ => exact unread_of_commutes fun _ _ => rfl

theorem step_unread (s : State) : LatchAndRecordUnread step s := by
  cases halted : s.halted with
  | true =>
    refine unread_of_commutes fun ie record => ?_
    rw [step_of_halted halted, step_of_halted (s := s.withLatchAndRecord ie record) halted]
    rfl
  | false =>
    obtain ⟨latch, events, law⟩ := exec_unread s.fetchInstr s
    refine ⟨latch, events, fun ie record => ?_⟩
    rw [step_of_running halted, step_of_running (s := s.withLatchAndRecord ie record) halted]
    exact law ie record

/-- Settles O17: the next states differ by the function of IE, which `setIe` overwrites. -/
theorem interruptEnableIsNeverRead : Obligations.InterruptEnableIsNeverRead := by
  unfold Obligations.InterruptEnableIsNeverRead
  intro s ie
  obtain ⟨latch, events, law⟩ := step_unread s
  have same : step s = _ := law s.ie s.ioWrites
  have other : step (s.setIe ie) = _ := law ie s.ioWrites
  rw [other]
  obtain ⟨t, answer⟩ | ⟨running, listed⟩ := step_completes_or_unimplemented s
  · rw [answer, mapNext, Host.Outcome.next.injEq] at same
    have events_t : s.ioWrites ++ events = t.ioWrites := (congrArg State.ioWrites same).symm
    rw [answer, events_t]
    rfl
  · rw [step_of_unimplemented running listed]
    rfl

/-- Settles O19: the events a step adds stand after those recorded before, whatever those are. -/
theorem recordedOutputsAreNeverRead : Obligations.RecordedOutputsAreNeverRead := by
  unfold Obligations.RecordedOutputsAreNeverRead
  intro s earlier
  obtain ⟨latch, events, law⟩ := step_unread s
  have same : step s = _ := law s.ie s.ioWrites
  have other : step { s with ioWrites := earlier ++ s.ioWrites } = _ :=
    law s.ie (earlier ++ s.ioWrites)
  rw [other]
  obtain ⟨t, answer⟩ | ⟨running, listed⟩ := step_completes_or_unimplemented s
  · rw [answer, mapNext, Host.Outcome.next.injEq] at same
    have ie_t : latch s.ie = t.ie := (congrArg State.ie same).symm
    have events_t : s.ioWrites ++ events = t.ioWrites := (congrArg State.ioWrites same).symm
    rw [answer, ie_t, List.append_assoc, events_t]
    rfl
  · rw [step_of_unimplemented running listed]
    rfl

/-! ## Bits 5, 3 and 1 of F -/

/-- The answers are the same fault, or next states that differ in the unused bits of F at most. -/
inductive AlikeButUnusedBits : Host.Outcome State Fault Refusal →
    Host.Outcome State Fault Refusal → Prop where
  | next {t u : State} (rest : u.setF 0 = t.setF 0) (meaningful : u.f &&& 0xD5#8 = t.f &&& 0xD5#8) :
      AlikeButUnusedBits (.next t) (.next u)
  | fault (reason : Fault) : AlikeButUnusedBits (.fault reason) (.fault reason)

/-! Every flag byte is computed from the meaningful bits of the old one. -/

section Meaningful

variable {f g : Byte} (same : f &&& 0xD5#8 = g &&& 0xD5#8)

include same

theorem getFlag_congr (h : Flag) : getFlag f h = getFlag g h := by
  rw [← getFlag_and_meaningful, same, getFlag_and_meaningful]

theorem setFlag_congr (h : Flag) (v : Bool) :
    setFlag f h v &&& 0xD5#8 = setFlag g h v &&& 0xD5#8 := by
  rw [setFlag_and_meaningful, same, ← setFlag_and_meaningful]

theorem setSZP_congr (res : Byte) : setSZP f res &&& 0xD5#8 = setSZP g res &&& 0xD5#8 :=
  setFlag_congr (setFlag_congr (setFlag_congr same _ _) _ _) _ _

theorem setCarries_congr (ac cy : Bool) :
    setCarries f ac cy &&& 0xD5#8 = setCarries g ac cy &&& 0xD5#8 :=
  setFlag_congr (setFlag_congr same _ _) _ _

theorem addFlags_congr (a b : Byte) (c : Bool) :
    addFlags f a b c &&& 0xD5#8 = addFlags g a b c &&& 0xD5#8 :=
  setCarries_congr (setSZP_congr same _) _ _

theorem subFlags_congr (a b : Byte) (c : Bool) :
    subFlags f a b c &&& 0xD5#8 = subFlags g a b c &&& 0xD5#8 :=
  setCarries_congr (setSZP_congr same _) _ _

theorem logicFlags_congr (res : Byte) : logicFlags f res &&& 0xD5#8 = logicFlags g res &&& 0xD5#8 :=
  setCarries_congr (setSZP_congr same _) _ _

theorem incFlags_congr (v : Byte) : incFlags f v &&& 0xD5#8 = incFlags g v &&& 0xD5#8 :=
  setFlag_congr (setSZP_congr same _) _ _

theorem decFlags_congr (v : Byte) : decFlags f v &&& 0xD5#8 = decFlags g v &&& 0xD5#8 :=
  setFlag_congr (setSZP_congr same _) _ _

theorem daaFlags_congr (a : Byte) : daaFlags f a &&& 0xD5#8 = daaFlags g a &&& 0xD5#8 := by
  unfold daaFlags
  rw [getFlag_congr same, getFlag_congr same]
  exact setCarries_congr (setSZP_congr same _) _ _

end Meaningful

/-- An instruction that writes F and advances, from its update `t` of the rest of the state. -/
theorem advance_alike {f g : Byte} (t : State) (n : Word)
    (meaningful : f &&& 0xD5#8 = g &&& 0xD5#8) :
    AlikeButUnusedBits ((t.setF g).advance n) ((t.setF f).advance n) :=
  .next rfl meaningful

section Alike

variable {s : State} {f : Byte} (same : f &&& 0xD5#8 = s.f &&& 0xD5#8)

include same

theorem condHolds_setF (cond : Cond) : (s.setF f).condHolds cond = s.condHolds cond := by
  have flag_eq (g : Flag) : (s.setF f).flag g = s.flag g := getFlag_congr same g
  cases cond <;> simp only [State.condHolds, flag_eq]

theorem jumpIf_alike (cond : Cond) (addr : Word) :
    AlikeButUnusedBits (s.jumpIf (s.condHolds cond) addr)
      ((s.setF f).jumpIf ((s.setF f).condHolds cond) addr) := by
  rw [condHolds_setF same]
  cases s.condHolds cond <;> exact .next rfl same

theorem callIf_alike (cond : Cond) (addr : Word) :
    AlikeButUnusedBits (s.callIf (s.condHolds cond) addr)
      ((s.setF f).callIf ((s.setF f).condHolds cond) addr) := by
  rw [condHolds_setF same]
  cases s.condHolds cond <;> exact .next rfl same

theorem returnIf_alike (cond : Cond) :
    AlikeButUnusedBits (s.returnIf (s.condHolds cond))
      ((s.setF f).returnIf ((s.setF f).condHolds cond)) := by
  rw [condHolds_setF same]
  cases s.condHolds cond <;> exact .next rfl same

theorem exec_alike {i : Instr} (notPush : i ≠ .pushPsw) :
    AlikeButUnusedBits (exec i s) (exec i (s.setF f)) := by
  have flag_eq (g : Flag) : (s.setF f).flag g = s.flag g := getFlag_congr same g
  cases i with
  | pushPsw => exact absurd rfl notPush
  | unimplemented byte => exact .fault _
  | add | adi => exact advance_alike (s.setReg .a _) _ (addFlags_congr same _ _ _)
  | adc =>
    rw [exec_adc, exec_adc, flag_eq]
    exact advance_alike (s.setReg .a _) _ (addFlags_congr same _ _ _)
  | aci =>
    rw [exec_aci, exec_aci, flag_eq]
    exact advance_alike (s.setReg .a _) _ (addFlags_congr same _ _ _)
  | sub | sui => exact advance_alike (s.setReg .a _) _ (subFlags_congr same _ _ _)
  | sbb =>
    rw [exec_sbb, exec_sbb, flag_eq]
    exact advance_alike (s.setReg .a _) _ (subFlags_congr same _ _ _)
  | sbi =>
    rw [exec_sbi, exec_sbi, flag_eq]
    exact advance_alike (s.setReg .a _) _ (subFlags_congr same _ _ _)
  | cmp | cpi => exact advance_alike s _ (subFlags_congr same _ _ _)
  | ana | xra | ora | ani | xri | ori =>
    exact advance_alike (s.setReg .a _) _ (logicFlags_congr same _)
  | inrR dst => exact advance_alike (s.setReg dst _) _ (incFlags_congr same _)
  | inrM => exact advance_alike (s.writeMem s.hl _) _ (incFlags_congr same _)
  | dcrR dst => exact advance_alike (s.setReg dst _) _ (decFlags_congr same _)
  | dcrM => exact advance_alike (s.writeMem s.hl _) _ (decFlags_congr same _)
  | dad => exact advance_alike (s.setPairOf .h .l _) _ (setFlag_congr same _ _)
  | daa =>
    rw [exec_daa, exec_daa, flag_eq, flag_eq]
    exact advance_alike (s.setReg .a _) _ (daaFlags_congr same _)
  | rlc | rrc => exact advance_alike (s.setReg .a _) _ (setFlag_congr same _ _)
  | ral =>
    rw [exec_ral, exec_ral, flag_eq]
    exact advance_alike (s.setReg .a _) _ (setFlag_congr same _ _)
  | rar =>
    rw [exec_rar, exec_rar, flag_eq]
    exact advance_alike (s.setReg .a _) _ (setFlag_congr same _ _)
  | stc => exact advance_alike s _ (setFlag_congr same _ _)
  | cmc =>
    rw [exec_cmc, exec_cmc, flag_eq]
    exact advance_alike s _ (setFlag_congr same _ _)
  | popPsw => exact advance_alike (s.popped.setReg .a _) _ rfl
  | lxi pair | inx pair | dcx pair | pop pair => cases pair <;> exact .next rfl same
  | jnz addr | jz addr | jnc addr | jc addr | jpo addr | jpe addr | jp addr | jm addr =>
    exact jumpIf_alike same _ addr
  | cnz addr | cz addr | cnc addr | cc addr | cpo addr | cpe addr | cp addr | cm addr =>
    exact callIf_alike same _ addr
  | rnz | rz | rnc | rc | rpo | rpe | rp | rm => exact returnIf_alike same _
  | _ => exact .next rfl same

theorem step_alike (notPush : s.halted = true ∨ s.readMem s.pc ≠ 0xF5) :
    AlikeButUnusedBits (step s) (step (s.setF f)) := by
  cases halted : s.halted with
  | true =>
    rw [step_of_halted halted, step_of_halted (s := s.setF f) halted]
    exact .next rfl same
  | false =>
    rw [step_of_running halted, step_of_running (s := s.setF f) halted]
    refine exec_alike same (i := s.fetchInstr) fun fetched => ?_
    have opcode : s.readMem s.pc ≠ 0xF5 := notPush.resolve_left (by simp [halted])
    exact opcode (opcode_of_decode fetched rfl)

end Alike

/-- Settles O18: F enters the next state by its meaningful bits, and the rest only by its flags. -/
theorem unusedFlagBitsAreNeverInterpreted : Obligations.UnusedFlagBitsAreNeverInterpreted := by
  unfold Obligations.UnusedFlagBitsAreNeverInterpreted
  intro s f same notPush
  have alike := step_alike same notPush
  generalize step s = answer, step (s.setF f) = other at alike
  cases alike with
  | next rest meaningful => exact ⟨rest, meaningful⟩
  | fault reason => rfl

end Sys2Proof.Machine
end
